-- ==== Sys2Proof/Word.lean ====
section
/-! DEFINITION. The widths of the hardware's values (00_scope.md R6, R10). -/

namespace Sys2Proof

/-- A general register, a timer, a byte of memory: 8 bits (R6 XLEN, TIMER_WIDTH). -/
abbrev Byte := BitVec 8

/-- `I`, `pc`, a stack entry, an instruction word: 16 bits (R6 I_WIDTH, PC_WIDTH, ILEN). -/
abbrev Word := BitVec 16

/-- A 4-bit instruction field: a register index, a key index, a row count (R10). -/
abbrev Nibble := BitVec 4

/-- The 12-bit address field `nnn` (R10). -/
abbrev Addr12 := BitVec 12

end Sys2Proof
end

