-- ==== Sys2Proof/Config.lean ====
section
/-! DEFINITION. The fixed parameters of the hardware (00_scope.md R6), its open parameters (R7) and the free value. -/

namespace Sys2Proof

/-- `MEM_SIZE` (R6). -/
@[simp] abbrev Config.memSize : Nat := 4096

/-- `PROG_BASE` (R6): where `LoadProgram` places the program. -/
@[simp] abbrev Config.progBase : Nat := 0x200

/-- `PROG_MAX` (R6): the largest program, in bytes. -/
@[simp] abbrev Config.progMax : Nat := 3584

/-- `PC_RESET` (R6). -/
@[simp] abbrev Config.pcReset : Word := 0x200#16

/-- `STACK_DEPTH` (R6). -/
@[simp] abbrev Config.stackDepth : Nat := 16

/-- `DISP_H` (R6): the rows of the display. -/
@[simp] abbrev Config.dispH : Nat := 32

/-- `DISP_W` (R6): the columns of the display. -/
@[simp] abbrev Config.dispW : Nat := 64

/-- `NKEYS` (R6). -/
@[simp] abbrev Config.nKeys : Nat := 16

/-- `SPRITE_W` (R6): the pixels of one sprite row. -/
@[simp] abbrev Config.spriteW : Nat := 8

/-- `ZERO_GROUP_STRICT` (R7, 30_encoding.md R76): the spec's default, false.
DESIGN CHOICE, unsafe: log entry 5. `decode` and `tick` take the parameter as an argument, so a claim can be made for
both of its values. -/
def Config.zeroGroupStrict : Bool := false

/-- `Rand()` (46_random.md R156): the byte the `rand` input presents at the k-th execution of Cxkk.
A FREE VALUE: nothing constrains it. DESIGN CHOICE, safe: log entry 2. -/
opaque Config.rand : Nat → Byte

end Sys2Proof
end

