-- ==== Sys2Proof/Syntax.lean ====
section
/-! DEFINITION. The 34 instructions of 30_encoding.md R81, one constructor per row of spec/opcode_table.json.
A constructor carries EVERY bit of its word that the row's mask leaves free, the don't-care bits of R83 included
(log entry 8): `ii` of CLS and RET, `y` of SHR and SHL. -/

namespace Sys2Proof

/-- One instruction, its fields named as 00_scope.md R10 names them. -/
inductive Instr where
  /-- `CLS`, 0ii0 (R130); `ii` is ignored. -/
  | cls (ii : Byte)
  /-- `RET`, 0iiE (R90); `ii` is ignored. -/
  | ret (ii : Byte)
  /-- `JP nnn`, 1nnn (R91). -/
  | jp (nnn : Addr12)
  /-- `CALL nnn`, 2nnn (R92). -/
  | call (nnn : Addr12)
  /-- `SE Vx,kk`, 3xkk (R93). -/
  | seImm (x : Nibble) (kk : Byte)
  /-- `SNE Vx,kk`, 4xkk (R94). -/
  | sneImm (x : Nibble) (kk : Byte)
  /-- `SE Vx,Vy`, 5xy0 (R95). -/
  | seReg (x y : Nibble)
  /-- `LD Vx,kk`, 6xkk (R100). -/
  | ldImm (x : Nibble) (kk : Byte)
  /-- `ADD Vx,kk`, 7xkk (R101). -/
  | addImm (x : Nibble) (kk : Byte)
  /-- `LD Vx,Vy`, 8xy0 (R102). -/
  | ldReg (x y : Nibble)
  /-- `OR Vx,Vy`, 8xy1 (R103). -/
  | orReg (x y : Nibble)
  /-- `AND Vx,Vy`, 8xy2 (R104). -/
  | andReg (x y : Nibble)
  /-- `XOR Vx,Vy`, 8xy3 (R105). -/
  | xorReg (x y : Nibble)
  /-- `ADD Vx,Vy`, 8xy4 (R106). -/
  | addReg (x y : Nibble)
  /-- `SUB Vx,Vy`, 8xy5 (R107). -/
  | subReg (x y : Nibble)
  /-- `SHR Vx`, 8xy6 (R108); `y` is ignored. -/
  | shr (x y : Nibble)
  /-- `SUBN Vx,Vy`, 8xy7 (R109). -/
  | subnReg (x y : Nibble)
  /-- `SHL Vx`, 8xyE (R110); `y` is ignored. -/
  | shl (x y : Nibble)
  /-- `SNE Vx,Vy`, 9xy0 (R96). -/
  | sneReg (x y : Nibble)
  /-- `LD I,nnn`, Annn (R120). -/
  | ldI (nnn : Addr12)
  /-- `JP V0,nnn`, Bnnn (R97). -/
  | jpV0 (nnn : Addr12)
  /-- `RND Vx,kk`, Cxkk (R155). -/
  | rnd (x : Nibble) (kk : Byte)
  /-- `DRW Vx,Vy,n`, Dxyn (R131). -/
  | drw (x y n : Nibble)
  /-- `SKP Vx`, Ex9E (R145). -/
  | skp (x : Nibble)
  /-- `SKNP Vx`, ExA1 (R146). -/
  | sknp (x : Nibble)
  /-- `LD Vx,DT`, Fx07 (R140). -/
  | ldVxDt (x : Nibble)
  /-- `LD Vx,K`, Fx0A (R147). -/
  | ldVxK (x : Nibble)
  /-- `LD DT,Vx`, Fx15 (R141). -/
  | ldDtVx (x : Nibble)
  /-- `LD ST,Vx`, Fx18 (R142). -/
  | ldStVx (x : Nibble)
  /-- `ADD I,Vx`, Fx1E (R121). -/
  | addI (x : Nibble)
  /-- `LD F,Vx`, Fx29 (R122). -/
  | ldF (x : Nibble)
  /-- `LD B,Vx`, Fx33 (R123). -/
  | ldB (x : Nibble)
  /-- `LD [I],Vx`, Fx55 (R124). -/
  | storeRegs (x : Nibble)
  /-- `LD Vx,[I]`, Fx65 (R125). -/
  | loadRegs (x : Nibble)
  deriving DecidableEq, Repr

/-- What the decoder answers (30_encoding.md R73): one of the 34 handlers, or `UnknownOpcode`. -/
inductive Decoded where
  | handler (i : Instr)
  | unknownOpcode
  deriving DecidableEq, Repr

end Sys2Proof
end

