-- ==== Sys2Proof/WellFormed.lean ====
section
/-! DEFINITION. Which instruction terms stand for a word of the hardware. Every field's width is in its type, so the one
check left is that of `ZERO_GROUP_STRICT` (30_encoding.md R76): when it is true only 0x00E0 is CLS and only 0x00EE is RET,
so the ignored byte of those two must be 0x0E. -/

namespace Sys2Proof

/-- The check, for either value of `ZERO_GROUP_STRICT`. -/
def Instr.wf (strict : Bool) : Instr → Bool
  | .cls ii => !strict || ii == 0x0E#8
  | .ret ii => !strict || ii == 0x0E#8
  | .jp _ => true
  | .call _ => true
  | .seImm _ _ => true
  | .sneImm _ _ => true
  | .seReg _ _ => true
  | .ldImm _ _ => true
  | .addImm _ _ => true
  | .ldReg _ _ => true
  | .orReg _ _ => true
  | .andReg _ _ => true
  | .xorReg _ _ => true
  | .addReg _ _ => true
  | .subReg _ _ => true
  | .shr _ _ => true
  | .subnReg _ _ => true
  | .shl _ _ => true
  | .sneReg _ _ => true
  | .ldI _ => true
  | .jpV0 _ => true
  | .rnd _ _ => true
  | .drw _ _ _ => true
  | .skp _ => true
  | .sknp _ => true
  | .ldVxDt _ => true
  | .ldVxK _ => true
  | .ldDtVx _ => true
  | .ldStVx _ => true
  | .addI _ => true
  | .ldF _ => true
  | .ldB _ => true
  | .storeRegs _ => true
  | .loadRegs _ => true

end Sys2Proof
end

