-- ==== Sys2Proof/Decode.lean ====
section
/-! DEFINITION. The decoder of 30_encoding.md (two levels, R73 to R80), the encoder, and the opcode map R81 as a table. -/

namespace Sys2Proof

/-- The 16-bit word of two bytes as they lie in memory, the first the high one (20_memory.md R53).
PRESUMED by the spec (its G1), unsafe: log entry 10. -/
def wordOfBytes (first second : Byte) : Word := first ++ second

/-- `opcode[15:8]`, the byte at the lower address (R53). -/
def highByte (w : Word) : Byte := w.extractLsb' 8 8

/-- `opcode[7:0]`, the byte at the higher address (R53). -/
def lowByte (w : Word) : Byte := w.extractLsb' 0 8

/-! ### The fields of R10 -/

/-- `op = opcode[15:12]`. -/
def opField (w : Word) : Nibble := w.extractLsb' 12 4

/-- `x = opcode[11:8]`. -/
def xField (w : Word) : Nibble := w.extractLsb' 8 4

/-- `y = opcode[7:4]`. -/
def yField (w : Word) : Nibble := w.extractLsb' 4 4

/-- `n = opcode[3:0]`, also the low-nibble selector `sel4` of R71. -/
def nField (w : Word) : Nibble := w.extractLsb' 0 4

/-- `kk = opcode[7:0]`, also the low-byte selector `sel8` of R71. -/
def kkField (w : Word) : Byte := w.extractLsb' 0 8

/-- `nnn = opcode[11:0]`. -/
def nnnField (w : Word) : Addr12 := w.extractLsb' 0 12

/-- Bits 11 to 4, which format `Z` ignores (R71, R76). -/
def iiField (w : Word) : Byte := w.extractLsb' 4 8

/-! ### The second level of the dispatch -/

/-- Group 0x0 (R76): the low nibble alone, or, with `ZERO_GROUP_STRICT`, the two canonical words alone. -/
def decodeGroup0 (strict : Bool) (w : Word) : Decoded :=
  if strict && iiField w != 0x0E#8 then .unknownOpcode
  else if nField w = 0x0#4 then .handler (.cls (iiField w))
  else if nField w = 0xE#4 then .handler (.ret (iiField w))
  else .unknownOpcode

/-- Group 0x5 (R77): the low nibble must be 0. -/
def decodeGroup5 (w : Word) : Decoded :=
  if nField w = 0x0#4 then .handler (.seReg (xField w) (yField w)) else .unknownOpcode

/-- Group 0x8 (R78): the low nibble. -/
def decodeGroup8 (w : Word) : Decoded :=
  if nField w = 0x0#4 then .handler (.ldReg (xField w) (yField w))
  else if nField w = 0x1#4 then .handler (.orReg (xField w) (yField w))
  else if nField w = 0x2#4 then .handler (.andReg (xField w) (yField w))
  else if nField w = 0x3#4 then .handler (.xorReg (xField w) (yField w))
  else if nField w = 0x4#4 then .handler (.addReg (xField w) (yField w))
  else if nField w = 0x5#4 then .handler (.subReg (xField w) (yField w))
  else if nField w = 0x6#4 then .handler (.shr (xField w) (yField w))
  else if nField w = 0x7#4 then .handler (.subnReg (xField w) (yField w))
  else if nField w = 0xE#4 then .handler (.shl (xField w) (yField w))
  else .unknownOpcode

/-- Group 0x9 (R77): the low nibble must be 0. -/
def decodeGroup9 (w : Word) : Decoded :=
  if nField w = 0x0#4 then .handler (.sneReg (xField w) (yField w)) else .unknownOpcode

/-- Group 0xE (R79): the low byte. -/
def decodeGroupE (w : Word) : Decoded :=
  if kkField w = 0x9E#8 then .handler (.skp (xField w))
  else if kkField w = 0xA1#8 then .handler (.sknp (xField w))
  else .unknownOpcode

/-- Group 0xF (R80): the low byte. -/
def decodeGroupF (w : Word) : Decoded :=
  if kkField w = 0x07#8 then .handler (.ldVxDt (xField w))
  else if kkField w = 0x0A#8 then .handler (.ldVxK (xField w))
  else if kkField w = 0x15#8 then .handler (.ldDtVx (xField w))
  else if kkField w = 0x18#8 then .handler (.ldStVx (xField w))
  else if kkField w = 0x1E#8 then .handler (.addI (xField w))
  else if kkField w = 0x29#8 then .handler (.ldF (xField w))
  else if kkField w = 0x33#8 then .handler (.ldB (xField w))
  else if kkField w = 0x55#8 then .handler (.storeRegs (xField w))
  else if kkField w = 0x65#8 then .handler (.loadRegs (xField w))
  else .unknownOpcode

/-! ### The first level (R73, R74) -/

/-- `Decode(opcode)` (R73), for either value of `ZERO_GROUP_STRICT`: total on all 65536 words, and it reads the word
only. -/
def decode (strict : Bool) (w : Word) : Decoded :=
  if opField w = 0x0#4 then decodeGroup0 strict w
  else if opField w = 0x1#4 then .handler (.jp (nnnField w))
  else if opField w = 0x2#4 then .handler (.call (nnnField w))
  else if opField w = 0x3#4 then .handler (.seImm (xField w) (kkField w))
  else if opField w = 0x4#4 then .handler (.sneImm (xField w) (kkField w))
  else if opField w = 0x5#4 then decodeGroup5 w
  else if opField w = 0x6#4 then .handler (.ldImm (xField w) (kkField w))
  else if opField w = 0x7#4 then .handler (.addImm (xField w) (kkField w))
  else if opField w = 0x8#4 then decodeGroup8 w
  else if opField w = 0x9#4 then decodeGroup9 w
  else if opField w = 0xA#4 then .handler (.ldI (nnnField w))
  else if opField w = 0xB#4 then .handler (.jpV0 (nnnField w))
  else if opField w = 0xC#4 then .handler (.rnd (xField w) (kkField w))
  else if opField w = 0xD#4 then .handler (.drw (xField w) (yField w) (nField w))
  else if opField w = 0xE#4 then decodeGroupE w
  else decodeGroupF w

/-- The decoder on the two bytes of an instruction as they lie in memory, total on any two bytes. -/
def decodeBytes (strict : Bool) (first second : Byte) : Decoded := decode strict (wordOfBytes first second)

/-- The host's question: what the decoder reads from an instruction whose bits, numbered as spec/opcode_table.json
numbers them, are `w`. The one word is laid out high byte first (R53). -/
def decodeTableWord (nbits w : Nat) : Option Instr :=
  let word := BitVec.ofNat 16 (w % 2 ^ nbits)
  match decodeBytes Config.zeroGroupStrict (highByte word) (lowByte word) with
  | .handler i => some i
  | .unknownOpcode => none

/-! ### The encoder, from the formats of R71 and the selectors of R74 to R80 -/

/-- Format `Z`: `0 ii sel4`. -/
def encodeZ (ii : Byte) (sel : Nibble) : Word := 0x0#4 ++ ii ++ sel

/-- Format `A`: `op nnn`. -/
def encodeA (op : Nibble) (nnn : Addr12) : Word := op ++ nnn

/-- Format `XK`: `op x kk`. -/
def encodeXK (op x : Nibble) (kk : Byte) : Word := op ++ x ++ kk

/-- Format `XY`: `op x y sel4`; format `XYN`: `op x y n`. -/
def encodeXY (op x y sel : Nibble) : Word := op ++ x ++ y ++ sel

/-- Format `XS`: `op x sel8`. -/
def encodeXS (op x : Nibble) (sel : Byte) : Word := op ++ x ++ sel

/-- The word of an instruction. -/
def encode : Instr → Word
  | .cls ii => encodeZ ii 0x0#4
  | .ret ii => encodeZ ii 0xE#4
  | .jp nnn => encodeA 0x1#4 nnn
  | .call nnn => encodeA 0x2#4 nnn
  | .seImm x kk => encodeXK 0x3#4 x kk
  | .sneImm x kk => encodeXK 0x4#4 x kk
  | .seReg x y => encodeXY 0x5#4 x y 0x0#4
  | .ldImm x kk => encodeXK 0x6#4 x kk
  | .addImm x kk => encodeXK 0x7#4 x kk
  | .ldReg x y => encodeXY 0x8#4 x y 0x0#4
  | .orReg x y => encodeXY 0x8#4 x y 0x1#4
  | .andReg x y => encodeXY 0x8#4 x y 0x2#4
  | .xorReg x y => encodeXY 0x8#4 x y 0x3#4
  | .addReg x y => encodeXY 0x8#4 x y 0x4#4
  | .subReg x y => encodeXY 0x8#4 x y 0x5#4
  | .shr x y => encodeXY 0x8#4 x y 0x6#4
  | .subnReg x y => encodeXY 0x8#4 x y 0x7#4
  | .shl x y => encodeXY 0x8#4 x y 0xE#4
  | .sneReg x y => encodeXY 0x9#4 x y 0x0#4
  | .ldI nnn => encodeA 0xA#4 nnn
  | .jpV0 nnn => encodeA 0xB#4 nnn
  | .rnd x kk => encodeXK 0xC#4 x kk
  | .drw x y n => encodeXY 0xD#4 x y n
  | .skp x => encodeXS 0xE#4 x 0x9E#8
  | .sknp x => encodeXS 0xE#4 x 0xA1#8
  | .ldVxDt x => encodeXS 0xF#4 x 0x07#8
  | .ldVxK x => encodeXS 0xF#4 x 0x0A#8
  | .ldDtVx x => encodeXS 0xF#4 x 0x15#8
  | .ldStVx x => encodeXS 0xF#4 x 0x18#8
  | .addI x => encodeXS 0xF#4 x 0x1E#8
  | .ldF x => encodeXS 0xF#4 x 0x29#8
  | .ldB x => encodeXS 0xF#4 x 0x33#8
  | .storeRegs x => encodeXS 0xF#4 x 0x55#8
  | .loadRegs x => encodeXS 0xF#4 x 0x65#8

/-! ### The opcode map R81, written from its table and used by no step -/

/-- One row of R81: a word `w` selects the row when `w AND mask = value`. -/
structure OpcodeRow where
  mnemonic : String
  value : Word
  mask : Word
  deriving DecidableEq, Repr

/-- Whether the word selects the row (R81). -/
def OpcodeRow.selects (row : OpcodeRow) (w : Word) : Bool := w &&& row.mask == row.value

/-- The first two rows of R81, by `ZERO_GROUP_STRICT`. -/
def opcodeRowsZero (strict : Bool) : List OpcodeRow :=
  if strict then [⟨"CLS", 0x00E0#16, 0xFFFF#16⟩, ⟨"RET", 0x00EE#16, 0xFFFF#16⟩]
  else [⟨"CLS", 0x0000#16, 0xF00F#16⟩, ⟨"RET", 0x000E#16, 0xF00F#16⟩]

/-- The rows of R81 with primary selectors 1 to 7. -/
def opcodeRowsLow : List OpcodeRow :=
  [⟨"JP nnn", 0x1000#16, 0xF000#16⟩, ⟨"CALL nnn", 0x2000#16, 0xF000#16⟩, ⟨"SE Vx,kk", 0x3000#16, 0xF000#16⟩,
   ⟨"SNE Vx,kk", 0x4000#16, 0xF000#16⟩, ⟨"SE Vx,Vy", 0x5000#16, 0xF00F#16⟩, ⟨"LD Vx,kk", 0x6000#16, 0xF000#16⟩,
   ⟨"ADD Vx,kk", 0x7000#16, 0xF000#16⟩]

/-- The rows of R81 with primary selector 8. -/
def opcodeRows8 : List OpcodeRow :=
  [⟨"LD Vx,Vy", 0x8000#16, 0xF00F#16⟩, ⟨"OR Vx,Vy", 0x8001#16, 0xF00F#16⟩, ⟨"AND Vx,Vy", 0x8002#16, 0xF00F#16⟩,
   ⟨"XOR Vx,Vy", 0x8003#16, 0xF00F#16⟩, ⟨"ADD Vx,Vy", 0x8004#16, 0xF00F#16⟩, ⟨"SUB Vx,Vy", 0x8005#16, 0xF00F#16⟩,
   ⟨"SHR Vx", 0x8006#16, 0xF00F#16⟩, ⟨"SUBN Vx,Vy", 0x8007#16, 0xF00F#16⟩, ⟨"SHL Vx", 0x800E#16, 0xF00F#16⟩]

/-- The rows of R81 with primary selectors 9 to 0xE. -/
def opcodeRowsHigh : List OpcodeRow :=
  [⟨"SNE Vx,Vy", 0x9000#16, 0xF00F#16⟩, ⟨"LD I,nnn", 0xA000#16, 0xF000#16⟩, ⟨"JP V0,nnn", 0xB000#16, 0xF000#16⟩,
   ⟨"RND Vx,kk", 0xC000#16, 0xF000#16⟩, ⟨"DRW Vx,Vy,n", 0xD000#16, 0xF000#16⟩, ⟨"SKP Vx", 0xE09E#16, 0xF0FF#16⟩,
   ⟨"SKNP Vx", 0xE0A1#16, 0xF0FF#16⟩]

/-- The rows of R81 with primary selector 0xF. -/
def opcodeRowsF : List OpcodeRow :=
  [⟨"LD Vx,DT", 0xF007#16, 0xF0FF#16⟩, ⟨"LD Vx,K", 0xF00A#16, 0xF0FF#16⟩, ⟨"LD DT,Vx", 0xF015#16, 0xF0FF#16⟩,
   ⟨"LD ST,Vx", 0xF018#16, 0xF0FF#16⟩, ⟨"ADD I,Vx", 0xF01E#16, 0xF0FF#16⟩, ⟨"LD F,Vx", 0xF029#16, 0xF0FF#16⟩,
   ⟨"LD B,Vx", 0xF033#16, 0xF0FF#16⟩, ⟨"LD [I],Vx", 0xF055#16, 0xF0FF#16⟩, ⟨"LD Vx,[I]", 0xF065#16, 0xF0FF#16⟩]

/-- The 34 rows of R81 in its order. -/
def opcodeTable (strict : Bool) : List OpcodeRow :=
  opcodeRowsZero strict ++ opcodeRowsLow ++ opcodeRows8 ++ opcodeRowsHigh ++ opcodeRowsF

/-- The mnemonic of R81 of an instruction. -/
def Instr.mnemonic : Instr → String
  | .cls _ => "CLS"
  | .ret _ => "RET"
  | .jp _ => "JP nnn"
  | .call _ => "CALL nnn"
  | .seImm _ _ => "SE Vx,kk"
  | .sneImm _ _ => "SNE Vx,kk"
  | .seReg _ _ => "SE Vx,Vy"
  | .ldImm _ _ => "LD Vx,kk"
  | .addImm _ _ => "ADD Vx,kk"
  | .ldReg _ _ => "LD Vx,Vy"
  | .orReg _ _ => "OR Vx,Vy"
  | .andReg _ _ => "AND Vx,Vy"
  | .xorReg _ _ => "XOR Vx,Vy"
  | .addReg _ _ => "ADD Vx,Vy"
  | .subReg _ _ => "SUB Vx,Vy"
  | .shr _ _ => "SHR Vx"
  | .subnReg _ _ => "SUBN Vx,Vy"
  | .shl _ _ => "SHL Vx"
  | .sneReg _ _ => "SNE Vx,Vy"
  | .ldI _ => "LD I,nnn"
  | .jpV0 _ => "JP V0,nnn"
  | .rnd _ _ => "RND Vx,kk"
  | .drw _ _ _ => "DRW Vx,Vy,n"
  | .skp _ => "SKP Vx"
  | .sknp _ => "SKNP Vx"
  | .ldVxDt _ => "LD Vx,DT"
  | .ldVxK _ => "LD Vx,K"
  | .ldDtVx _ => "LD DT,Vx"
  | .ldStVx _ => "LD ST,Vx"
  | .addI _ => "ADD I,Vx"
  | .ldF _ => "LD F,Vx"
  | .ldB _ => "LD B,Vx"
  | .storeRegs _ => "LD [I],Vx"
  | .loadRegs _ => "LD Vx,[I]"

end Sys2Proof
end

