-- ==== Sys2Proof/Machine/State.lean ====
section
/-! DEFINITION. The machine's state, all of 10_state.md, and the state after reset (R45). -/

namespace Sys2Proof.Machine

/-- The memory of R20 as plain data: the cells that differ from what an unlisted address reads as, addresses rising.
`Memory.wf` in Machine/Memory.lean states the form. -/
abbrev Memory := List Host.Cell

/-- The display of R37: 32 rows, row 0 the top one, each of 64 pixels, column 0 the left one; `true` is on. -/
abbrev Display := Vector (Vector Bool 64) 32

/-- The cause of a fault (60_exceptions.md R201), with what it records beside `pc` and `opcode`. -/
inductive FaultCause where
  /-- Code 1: the word matches no row of R81. -/
  | unknownOpcode
  /-- Code 2: CALL with 16 entries on the stack. -/
  | stackOverflow
  /-- Code 3: RET with an empty stack. -/
  | stackUnderflow
  /-- Code 4: SKP or SKNP with `Vx` above 15; `value` is that `Vx`. -/
  | keyIndexOutOfRange (value : Byte)
  deriving DecidableEq, Repr

/-- What the fault latch holds when it is set (R42, R201). -/
structure FaultRecord where
  cause : FaultCause
  pc : Word
  opcode : Word
  deriving DecidableEq, Repr

/-- The reasons a step could stop with. There is NONE: every fault of the spec is a next state with the latch set
(60_exceptions.md R205), and a halted tick is a next state too (47_cycle_step.md R167). No meaning and no step can answer
`fault`, which is safe: log entry 1. -/
inductive Fault where
  deriving DecidableEq, Repr

/-- The reasons a step could be refused with. -/
inductive Refusal where
  /-- Raised by `exec`'s arm of an instruction that has no meaning yet; safe. No arm raises it: every instruction of the
  table has its meaning. -/
  | notModelled (mnemonic : String)
  deriving DecidableEq, Repr

/-- The state of 10_state.md section 1, and the model's own counter `draws`. -/
structure State where
  /-- `mem` (R20). -/
  mem : Memory
  /-- `V[0..15]` (R22); `V[15]` is VF (R25). -/
  v : Vector Byte 16
  /-- `I` (R28). -/
  I : Word
  /-- `pc` (R30). -/
  pc : Word
  /-- The call stack (R34), its last element the top. -/
  stack : List Word
  /-- `DT` (R36). -/
  dt : Byte
  /-- `ST` (R36). -/
  st : Byte
  /-- `disp` (R37). -/
  disp : Display
  /-- `redraw` (R38). -/
  redraw : Bool
  /-- `key[0..15]` (R39). -/
  key : Vector Bool 16
  /-- `last_key` (R39, R40). -/
  lastKey : Nibble
  /-- `waiting` (R39): `true` in the blocked-on-key phase. -/
  waiting : Bool
  /-- `kp` (R40). -/
  kp : Bool
  /-- `wx` (R41). -/
  wx : Nibble
  /-- The fault latch (R42). -/
  fault : Option FaultRecord
  /-- THE MODEL'S OWN: how many random bytes Cxkk has taken, the argument of the free value `Config.rand`
  (46_random.md R156; log entry 2). -/
  draws : Nat
  deriving DecidableEq, Repr

/-- The state after `Reset` (R45, 70_reset_and_hazards.md R230). `lastKey` and `wx`, which R45 leaves unspecified, and
`draws` are DESIGN CHOICES: log entries 3, 4 and 2. The font and the zeros of `mem` are what an unlisted address reads
as. -/
def State.reset : State where
  mem := []
  v := Vector.replicate 16 0#8
  I := 0#16
  pc := Config.pcReset
  stack := []
  dt := 0#8
  st := 0#8
  disp := Vector.replicate 32 (Vector.replicate 64 false)
  redraw := true
  key := Vector.replicate 16 false
  lastKey := 0#4
  waiting := false
  kp := false
  wx := 0#4
  fault := none
  draws := 0

end Sys2Proof.Machine
end

