-- ==== Sys2Proof/Machine/Memory.lean ====
section
/-! DEFINITION. Memory access (20_memory.md R50 to R54), the font (R58) and the canonical form of the cell list. -/

namespace Sys2Proof.Machine

/-- The glyphs of digits 0 to 3 (R58). -/
def fontGlyphs0 : List Byte :=
  [0xF0, 0x90, 0x90, 0x90, 0xF0, 0x20, 0x60, 0x20, 0x20, 0x70,
   0xF0, 0x10, 0xF0, 0x80, 0xF0, 0xF0, 0x10, 0xF0, 0x10, 0xF0]

/-- The glyphs of digits 4 to 7 (R58). -/
def fontGlyphs4 : List Byte :=
  [0x90, 0x90, 0xF0, 0x10, 0x10, 0xF0, 0x80, 0xF0, 0x10, 0xF0,
   0xF0, 0x80, 0xF0, 0x90, 0xF0, 0xF0, 0x10, 0x20, 0x40, 0x40]

/-- The glyphs of digits 8 to B (R58). -/
def fontGlyphs8 : List Byte :=
  [0xF0, 0x90, 0xF0, 0x90, 0xF0, 0xF0, 0x90, 0xF0, 0x10, 0xF0,
   0xF0, 0x90, 0xF0, 0x90, 0x90, 0xE0, 0x90, 0xE0, 0x90, 0xE0]

/-- The glyphs of digits C to F (R58). -/
def fontGlyphsC : List Byte :=
  [0xF0, 0x80, 0x80, 0x80, 0xF0, 0xE0, 0x90, 0x90, 0x90, 0xE0,
   0xF0, 0x80, 0xF0, 0x80, 0xF0, 0xF0, 0x80, 0xF0, 0x80, 0x80]

/-- The 80 font bytes of 0x000 to 0x04F (R58). PRESUMED by the spec (its G14), unsafe: log entry 6. -/
def fontBytes : List Byte := fontGlyphs0 ++ fontGlyphs4 ++ fontGlyphs8 ++ fontGlyphsC

/-- What an unlisted address reads as: the byte reset leaves there (10_state.md R45), the font below 0x050 and 0 from there
on. -/
def resetByte (a : Nat) : Byte := fontBytes.getD a 0#8

/-- The cell of address `a` in the list, or the reset byte. -/
def Memory.lookup (a : Nat) : Memory → Byte
  | [] => resetByte a
  | (k, b) :: rest => if k = a then b else Memory.lookup a rest

/-- Enter a cell in its place. -/
def Memory.insert (a : Nat) (b : Byte) : Memory → Memory
  | [] => [(a, b)]
  | c :: rest => if a < c.1 then (a, b) :: c :: rest else c :: Memory.insert a b rest

/-- `MemRead(addr, 1)` (R50): any natural address, masked modulo 4096. -/
def Memory.read (m : Memory) (addr : Nat) : Byte := Memory.lookup (addr % Config.memSize) m

/-- `MemRead(addr, 2)` (R50, R53): each byte masked on its own, the first the high one. -/
def Memory.readWord (m : Memory) (addr : Nat) : Word := wordOfBytes (m.read addr) (m.read (addr + 1))

/-- `MemWrite(addr, 1, v)` (R51): any natural address, masked modulo 4096. Writing the reset byte unlists the address. -/
def Memory.write (m : Memory) (addr : Nat) (b : Byte) : Memory :=
  let a := addr % Config.memSize
  let others := m.filter fun c => c.1 != a
  if b = resetByte a then others else Memory.insert a b others

/-- Bytes written at ascending addresses (R54). -/
def Memory.writeBytes (m : Memory) (addr : Nat) : List Byte → Memory
  | [] => m
  | b :: rest => Memory.writeBytes (m.write addr b) (addr + 1) rest

/-- The canonical form: addresses inside memory and strictly rising, and no cell that holds its reset byte. -/
abbrev Memory.wf (m : Memory) : Prop :=
  m.Pairwise (fun c d => c.1 < d.1) ∧ ∀ c ∈ m, c.1 < Config.memSize ∧ c.2 ≠ resetByte c.1

end Sys2Proof.Machine
end

