-- ==== Sys2Proof/Machine/Operands.lean ====
section
/-! DEFINITION. The operand forms: registers, the widened values, key states, and how `pc` moves (10_state.md R31). -/

namespace Sys2Proof.Machine

/-- Read `V[r]` (R22). -/
def readReg (s : State) (r : Nibble) : Byte := s.v[r.toNat]

/-- Write `V[r]` (R22): no register is hardwired. -/
def writeReg (r : Nibble) (b : Byte) (s : State) : State := { s with v := s.v.set r.toNat b }

/-- The index of VF (R25). -/
def vf : Nibble := 0xF#4

/-- `zext_16` of a register (00_scope.md R11). -/
def zext16 (b : Byte) : Word := b.setWidth 16

/-- `zext_16(nnn)` (30_encoding.md R72). -/
def zext16Addr (nnn : Addr12) : Word := nnn.setWidth 16

/-- Whether key `k` is pressed (R39); a `k` above 15 names no key, and R149 stops before asking. -/
def keyPressed (s : State) (k : Byte) : Bool := s.key[k.toNat]?.getD false

/-- `pc <- (pc + 2) mod 65536` (R31). -/
def advance (s : State) : State := { s with pc := s.pc + 2#16 }

/-- The skip of R31: `pc + 4` when the condition holds, else `pc + 2`. -/
def skipIf (cond : Bool) (s : State) : State := { s with pc := s.pc + if cond then 4#16 else 2#16 }

/-- `pc <- target`. -/
def jumpTo (target : Word) (s : State) : State := { s with pc := target }

end Sys2Proof.Machine
end

