-- ==== Sys2Proof/Machine/Flags.lean ====
section
/-! DEFINITION. What VF receives (10_state.md R26), and the order of the two writes (R27). -/

namespace Sys2Proof.Machine

/-- A flag value: exactly 0 or 1 (R26). -/
def flagByte (b : Bool) : Byte := if b then 1#8 else 0#8

/-- The carry of an addition (41_arithmetic_logic.md R111): the unwrapped sum exceeds 255. -/
def carry (a b : Byte) : Byte := flagByte (decide (a.toNat + b.toNat > 255))

/-- The flag of the subtraction `a − b` (R111): no borrow, `a ≥ b`. -/
def noBorrow (a b : Byte) : Byte := flagByte (decide (a.toNat ≥ b.toNat))

/-- The bit SHR shifts out (R108). -/
def lowBit (a : Byte) : Byte := flagByte (a.getLsbD 0)

/-- The bit SHL shifts out (R110). -/
def highBit (a : Byte) : Byte := flagByte (a.getLsbD 7)

/-- The result to `V[x]`, then the flag to VF, last (R27, D8), then `pc + 2`. -/
def writeResultAndFlag (x : Nibble) (result flag : Byte) (s : State) : State :=
  advance (writeReg vf flag (writeReg x result s))

end Sys2Proof.Machine
end

