-- ==== Sys2Proof/Machine/Ops.lean ====
section
/-! DEFINITION. The named operations over the state that several instructions or the tick share: raising a fault, the
call stack, fetching, the timer tick, the key-wait, the register transfers. -/

namespace Sys2Proof.Machine

/-- The code of a cause (60_exceptions.md R201). -/
def faultCode : FaultCause → Nat
  | .unknownOpcode => 1
  | .stackOverflow => 2
  | .stackUnderflow => 3
  | .keyIndexOutOfRange _ => 4

/-- `raise F(info)` (60_exceptions.md R205): the latch is set with the cause, the `pc` of the faulting instruction and its
word, and nothing else changes. There is no return from a fault (R210). -/
def raise (cause : FaultCause) (opcode : Word) (s : State) : State :=
  { s with fault := some { cause := cause, pc := s.pc, opcode := opcode } }

/-- `push(v)` (00_scope.md R11): append to the end. -/
def push (w : Word) (s : State) : State := { s with stack := s.stack ++ [w] }

/-- CALL's body (40_flow_control.md R92): the fault when 16 entries are on the stack (or, in a state no run reaches, more:
log entry 13), else push the current `pc` and jump. -/
def callTo (target opcode : Word) (s : State) : State :=
  if Config.stackDepth ≤ s.stack.length then raise .stackOverflow opcode s
  else jumpTo target (push s.pc s)

/-- RET's body (R90): the fault when the stack is empty, else pop and go to the popped value plus 2. -/
def returnFromCall (opcode : Word) (s : State) : State :=
  match s.stack.getLast? with
  | none => raise .stackUnderflow opcode s
  | some t => jumpTo (t + 2#16) { s with stack := s.stack.dropLast }

/-- The body of the two key skips (45_keys.md R145, R146, R149): the fault when `V[x]` is above 15, else a skip when the
key's state is `want`. -/
def skipIfKey (want : Bool) (x : Nibble) (opcode : Word) (s : State) : State :=
  if (readReg s x).toNat > 15 then raise (.keyIndexOutOfRange (readReg s x)) opcode s
  else skipIf (keyPressed s (readReg s x) == want) s

/-- `Rand()` (46_random.md R156): the byte this execution takes. -/
def randByte (s : State) : Byte := Config.rand s.draws

/-- The next execution of Cxkk takes a fresh byte. -/
def countDraw (s : State) : State := { s with draws := s.draws + 1 }

/-- The three stores of LD B (42_memory_index.md R123), in its order. -/
def storeBcd (m : Memory) (i : Nat) (b : Byte) : Memory :=
  ((m.write i (BitVec.ofNat 8 (b.toNat / 100))).write (i + 1) (BitVec.ofNat 8 (b.toNat / 10 % 10))).write (i + 2)
    (BitVec.ofNat 8 (b.toNat % 10))

/-- `V[0]` to `V[count − 1]` to memory from address `i`, ascending (R124). -/
def dumpRegs (v : Vector Byte 16) (i : Nat) : Nat → Memory → Memory
  | 0, m => m
  | count + 1, m => (dumpRegs v i count m).write (i + count) (v[count]?.getD 0#8)

/-- Memory from address `i` to `V[0]` to `V[count − 1]`, ascending (R125). -/
def fillRegs (m : Memory) (i : Nat) : Nat → Vector Byte 16 → Vector Byte 16
  | 0, v => v
  | count + 1, v => (fillRegs m i count v).setIfInBounds count (m.read (i + count))

/-- The fetch (20_memory.md R50, R53): `MemRead(pc, 2)`. -/
def fetch (s : State) : Word := s.mem.readWord s.pc.toNat

/-- One timer toward 0, never below (47_cycle_step.md R166). -/
def countDown (t : Byte) : Byte := if t.toNat > 0 then t - 1#8 else t

/-- `TimerTick()` (R166). -/
def timerTick (s : State) : State := { s with dt := countDown s.dt, st := countDown s.st }

/-- Fx0A's body (45_keys.md R147): enter the waiting phase; `pc` does not move. -/
def enterKeyWait (x : Nibble) (s : State) : State := { s with waiting := true, kp := false, wx := x }

/-- The poll of a blocked tick (R148): the commit when a press has been seen, else nothing. -/
def keyWaitPoll (s : State) : State :=
  if s.kp then
    { advance (writeReg s.wx (s.lastKey.setWidth 8) s) with waiting := false, kp := false }
  else s

end Sys2Proof.Machine
end

