-- ==== Sys2Proof/Machine/Arithmetic.lean ====
section
/-! DEFINITION. The load, arithmetic, logic and shift family (41_arithmetic_logic.md). Operands are read from the state
before any write (R112). -/

namespace Sys2Proof.Machine

/-- `LD Vx,kk` (R100). -/
def execLdImm (x : Nibble) (kk : Byte) (s : State) : Host.Outcome State Fault Refusal :=
  .next (advance (writeReg x kk s))

/-- `ADD Vx,kk` (R101): no flag. -/
def execAddImm (x : Nibble) (kk : Byte) (s : State) : Host.Outcome State Fault Refusal :=
  .next (advance (writeReg x (readReg s x + kk) s))

/-- `LD Vx,Vy` (R102). -/
def execLdReg (x y : Nibble) (s : State) : Host.Outcome State Fault Refusal :=
  .next (advance (writeReg x (readReg s y) s))

/-- `OR Vx,Vy` (R103). -/
def execOrReg (x y : Nibble) (s : State) : Host.Outcome State Fault Refusal :=
  .next (advance (writeReg x (readReg s x ||| readReg s y) s))

/-- `AND Vx,Vy` (R104). -/
def execAndReg (x y : Nibble) (s : State) : Host.Outcome State Fault Refusal :=
  .next (advance (writeReg x (readReg s x &&& readReg s y) s))

/-- `XOR Vx,Vy` (R105). -/
def execXorReg (x y : Nibble) (s : State) : Host.Outcome State Fault Refusal :=
  .next (advance (writeReg x (readReg s x ^^^ readReg s y) s))

/-- `ADD Vx,Vy` (R106). -/
def execAddReg (x y : Nibble) (s : State) : Host.Outcome State Fault Refusal :=
  .next (writeResultAndFlag x (readReg s x + readReg s y) (carry (readReg s x) (readReg s y)) s)

/-- `SUB Vx,Vy` (R107): `Vx − Vy`. -/
def execSubReg (x y : Nibble) (s : State) : Host.Outcome State Fault Refusal :=
  .next (writeResultAndFlag x (readReg s x - readReg s y) (noBorrow (readReg s x) (readReg s y)) s)

/-- `SHR Vx` (R108): `y` is not read. -/
def execShr (x : Nibble) (s : State) : Host.Outcome State Fault Refusal :=
  .next (writeResultAndFlag x (readReg s x >>> 1) (lowBit (readReg s x)) s)

/-- `SUBN Vx,Vy` (R109): `Vy − Vx`. -/
def execSubnReg (x y : Nibble) (s : State) : Host.Outcome State Fault Refusal :=
  .next (writeResultAndFlag x (readReg s y - readReg s x) (noBorrow (readReg s y) (readReg s x)) s)

/-- `SHL Vx` (R110): `y` is not read. -/
def execShl (x : Nibble) (s : State) : Host.Outcome State Fault Refusal :=
  .next (writeResultAndFlag x (readReg s x <<< 1) (highBit (readReg s x)) s)

end Sys2Proof.Machine
end

