-- ==== Sys2Proof/Machine/Display.lean ====
section
/-! DEFINITION. The display family (43_display.md): pixels, the XOR sprite loop of R131, CLS and DRW. -/

namespace Sys2Proof.Machine

/-- The display with every pixel off (R130). -/
def blankDisplay : Display := Vector.replicate 32 (Vector.replicate 64 false)

/-- The pixel at a row and a column, each wrapped on its own (R133). -/
def Display.pixel (d : Display) (row col : Nat) : Bool :=
  (d[row % 32]'(Nat.mod_lt _ (by decide)))[col % 64]'(Nat.mod_lt _ (by decide))

/-- The display with that one pixel inverted (R131: XOR 1). -/
def Display.toggle (d : Display) (row col : Nat) : Display :=
  d.set (row % 32)
    ((d[row % 32]'(Nat.mod_lt _ (by decide))).set (col % 64) (!d.pixel row col) (Nat.mod_lt _ (by decide)))
    (Nat.mod_lt _ (by decide))

/-- What the loop of R131 carries: the display and `hit`. -/
structure Canvas where
  disp : Display
  hit : Bool
  deriving DecidableEq, Repr

/-- The body of R131's loop for one sprite bit. -/
def drawBit (bit : Bool) (row col : Nat) (cv : Canvas) : Canvas :=
  if bit then { disp := cv.disp.toggle row col, hit := cv.hit || cv.disp.pixel row col } else cv

/-- The sprite bit of column `c`: bit 7 is the left pixel (R131). -/
def spriteBit (b : Byte) (c : Nat) : Bool := b.getLsbD (7 - c)

/-- Columns 0 to `count − 1` of one sprite row. -/
def drawColumns (b : Byte) (row vx : Nat) : Nat → Canvas → Canvas
  | 0, cv => cv
  | count + 1, cv => drawBit (spriteBit b count) row (vx + count) (drawColumns b row vx count cv)

/-- Sprite rows 0 to `count − 1`, each read from memory at `i + r`. -/
def drawRows (m : Memory) (i vx vy : Nat) : Nat → Canvas → Canvas
  | 0, cv => cv
  | count + 1, cv =>
    drawColumns (m.read (i + count)) (vy + count) vx Config.spriteW (drawRows m i vx vy count cv)

/-- `CLS` (R130). -/
def execCls (s : State) : Host.Outcome State Fault Refusal :=
  .next (advance { s with disp := blankDisplay, redraw := true })

/-- `DRW Vx,Vy,n` (R131): `Vx` and `Vy` are read before VF is written, and VF is written last. -/
def execDrw (x y n : Nibble) (s : State) : Host.Outcome State Fault Refusal :=
  let cv := drawRows s.mem s.I.toNat (readReg s x).toNat (readReg s y).toNat n.toNat { disp := s.disp, hit := false }
  .next (advance (writeReg vf (flagByte cv.hit) { s with disp := cv.disp, redraw := true }))

end Sys2Proof.Machine
end

