-- ==== Sys2Proof/Machine/FlowControl.lean ====
section
/-! DEFINITION. The flow control family (40_flow_control.md): the meanings of RET, JP, CALL, SE, SNE and JP V0. -/

namespace Sys2Proof.Machine

/-- `RET` (R90). -/
def execRet (ii : Byte) (s : State) : Host.Outcome State Fault Refusal :=
  .next (returnFromCall (encode (.ret ii)) s)

/-- `JP nnn` (R91). -/
def execJp (nnn : Addr12) (s : State) : Host.Outcome State Fault Refusal :=
  .next (jumpTo (zext16Addr nnn) s)

/-- `CALL nnn` (R92). -/
def execCall (nnn : Addr12) (s : State) : Host.Outcome State Fault Refusal :=
  .next (callTo (zext16Addr nnn) (encode (.call nnn)) s)

/-- `SE Vx,kk` (R93). -/
def execSeImm (x : Nibble) (kk : Byte) (s : State) : Host.Outcome State Fault Refusal :=
  .next (skipIf (readReg s x == kk) s)

/-- `SNE Vx,kk` (R94). -/
def execSneImm (x : Nibble) (kk : Byte) (s : State) : Host.Outcome State Fault Refusal :=
  .next (skipIf (readReg s x != kk) s)

/-- `SE Vx,Vy` (R95). -/
def execSeReg (x y : Nibble) (s : State) : Host.Outcome State Fault Refusal :=
  .next (skipIf (readReg s x == readReg s y) s)

/-- `SNE Vx,Vy` (R96). -/
def execSneReg (x y : Nibble) (s : State) : Host.Outcome State Fault Refusal :=
  .next (skipIf (readReg s x != readReg s y) s)

/-- `JP V0,nnn` (R97). -/
def execJpV0 (nnn : Addr12) (s : State) : Host.Outcome State Fault Refusal :=
  .next (jumpTo (zext16Addr nnn + zext16 (readReg s 0x0#4)) s)

end Sys2Proof.Machine
end

