-- ==== Sys2Proof/Machine/Keys.lean ====
section
/-! DEFINITION. The key family (45_keys.md): the two key skips and the entry to the key-wait. -/

namespace Sys2Proof.Machine

/-- `SKP Vx` (R145). -/
def execSkp (x : Nibble) (s : State) : Host.Outcome State Fault Refusal :=
  .next (skipIfKey true x (encode (.skp x)) s)

/-- `SKNP Vx` (R146). -/
def execSknp (x : Nibble) (s : State) : Host.Outcome State Fault Refusal :=
  .next (skipIfKey false x (encode (.sknp x)) s)

/-- `LD Vx,K` (R147). -/
def execLdVxK (x : Nibble) (s : State) : Host.Outcome State Fault Refusal :=
  .next (enterKeyWait x s)

end Sys2Proof.Machine
end

