-- ==== Sys2Proof/Machine/MemoryIndex.lean ====
section
/-! DEFINITION. The index and memory transfer family (42_memory_index.md). `I` is the base of every access and none of the
transfers changes it (R126). -/

namespace Sys2Proof.Machine

/-- `LD I,nnn` (R120). -/
def execLdI (nnn : Addr12) (s : State) : Host.Outcome State Fault Refusal :=
  .next (advance { s with I := zext16Addr nnn })

/-- `ADD I,Vx` (R121): wraps at 16 bits, no flag. -/
def execAddI (x : Nibble) (s : State) : Host.Outcome State Fault Refusal :=
  .next (advance { s with I := s.I + zext16 (readReg s x) })

/-- `LD F,Vx` (R122): five times the whole of `Vx`. -/
def execLdF (x : Nibble) (s : State) : Host.Outcome State Fault Refusal :=
  .next (advance { s with I := 5#16 * zext16 (readReg s x) })

/-- `LD B,Vx` (R123). -/
def execLdB (x : Nibble) (s : State) : Host.Outcome State Fault Refusal :=
  .next (advance { s with mem := storeBcd s.mem s.I.toNat (readReg s x) })

/-- `LD [I],Vx` (R124): `V[0]` to `V[x]`, `x` included. -/
def execStoreRegs (x : Nibble) (s : State) : Host.Outcome State Fault Refusal :=
  .next (advance { s with mem := dumpRegs s.v s.I.toNat (x.toNat + 1) s.mem })

/-- `LD Vx,[I]` (R125): `V[0]` to `V[x]`, `x` included. -/
def execLoadRegs (x : Nibble) (s : State) : Host.Outcome State Fault Refusal :=
  .next (advance { s with v := fillRegs s.mem s.I.toNat (x.toNat + 1) s.v })

end Sys2Proof.Machine
end

