-- ==== Sys2Proof/Machine/Random.lean ====
section
/-! DEFINITION. The random instruction (46_random.md). -/

namespace Sys2Proof.Machine

/-- `RND Vx,kk` (R155): a fresh byte (R156) AND the immediate. -/
def execRnd (x : Nibble) (kk : Byte) (s : State) : Host.Outcome State Fault Refusal :=
  .next (advance (countDraw (writeReg x (randByte s &&& kk) s)))

end Sys2Proof.Machine
end

