-- ==== Sys2Proof/Machine/Timers.lean ====
section
/-! DEFINITION. The timer family (44_timers.md). The countdown is the tick's, not theirs (R144). -/

namespace Sys2Proof.Machine

/-- `LD Vx,DT` (R140). -/
def execLdVxDt (x : Nibble) (s : State) : Host.Outcome State Fault Refusal :=
  .next (advance (writeReg x s.dt s))

/-- `LD DT,Vx` (R141). -/
def execLdDtVx (x : Nibble) (s : State) : Host.Outcome State Fault Refusal :=
  .next (advance { s with dt := readReg s x })

/-- `LD ST,Vx` (R142). -/
def execLdStVx (x : Nibble) (s : State) : Host.Outcome State Fault Refusal :=
  .next (advance { s with st := readReg s x })

end Sys2Proof.Machine
end

