-- ==== Sys2Proof/Machine/Tick.lean ====
section
/-! DEFINITION. The tick (47_cycle_step.md R160 to R169): its three cases, the fetch and decode, the handler, the timer
tick. Machine/Step.lean calls it with the configured decoding. -/

namespace Sys2Proof.Machine

/-- What follows a handler in a running tick that began with no fault (R162, R165): the timer tick, unless the handler
raised. -/
def endOfTick : Host.Outcome State Fault Refusal → Host.Outcome State Fault Refusal
  | .next t => .next (if t.fault.isNone then timerTick t else t)
  | .fault r => .fault r
  | .refused r => .refused r

/-- A running-phase tick (R162): fetch, decode, execute, count down; an unknown word raises (60_exceptions.md R202). -/
def runningTick (strict : Bool) (s : State) : Host.Outcome State Fault Refusal :=
  match decode strict (fetch s) with
  | .unknownOpcode => .next (raise .unknownOpcode (fetch s) s)
  | .handler i => endOfTick (exec i s)

/-- `Tick()` (R162) for either value of `ZERO_GROUP_STRICT`: halted, blocked on a key, or running, by the state at its
start (R161). -/
def tick (strict : Bool) (s : State) : Host.Outcome State Fault Refusal :=
  if s.fault.isSome then .next s
  else if s.waiting then .next (keyWaitPoll s)
  else runningTick strict s

/-- The state with a word placed where the next tick fetches it, in the running phase (log entry 12): the two bytes at
`pc`, the high one first, and nothing waiting or latched. -/
def placeWord (w : Word) (s : State) : State :=
  { s with
    mem := (s.mem.write s.pc.toNat (highByte w)).write (s.pc.toNat + 1) (lowByte w)
    waiting := false
    fault := none }

end Sys2Proof.Machine
end

