-- ==== Sys2Proof/Machine/Step.lean ====
section
/-! DEFINITION. The step of the machine: one qualifying tick (47_cycle_step.md R160), with the decoding of
`Config.zeroGroupStrict`; and the host's question of running a given word. -/

namespace Sys2Proof.Machine

/-- The step: `Tick()` (R160, R162). -/
def step (s : State) : Host.Outcome State Fault Refusal := tick Config.zeroGroupStrict s

/-- `s` with the instruction whose table bits are `w` stored where `step` fetches next. -/
def State.withFetchWord (s : State) (nbits w : Nat) : State := placeWord (BitVec.ofNat 16 (w % 2 ^ nbits)) s

end Sys2Proof.Machine
end

