-- ==== Sys2Proof/Assembly.lean ====
section
/-! DEFINITION. The assembler text of an instruction (30_encoding.md R85): a mnemonic, a space, operands separated by
commas. Presentation only: no step reads it. Of the two number forms R85 allows, addresses are written in hexadecimal and
other numbers in decimal, as the four lines the source shows are. -/

namespace Sys2Proof

/-- One hexadecimal digit in capitals. -/
def hexDigit (d : Nibble) : String :=
  ["0", "1", "2", "3", "4", "5", "6", "7", "8", "9", "A", "B", "C", "D", "E", "F"].getD d.toNat ""

/-- `V0` to `V9` and `VA` to `VF`. -/
def regText (r : Nibble) : String := "V" ++ hexDigit r

/-- A 12-bit address with the prefix `0x`. -/
def addrText (nnn : Addr12) : String :=
  "0x" ++ hexDigit (nnn.extractLsb' 8 4) ++ hexDigit (nnn.extractLsb' 4 4) ++ hexDigit (nnn.extractLsb' 0 4)

/-- A number in decimal. -/
def numText (n : Nat) : String := toString n

/-- Mnemonic, `Vx`, `Vy`. -/
def textXY (mnemonic : String) (x y : Nibble) : String := mnemonic ++ " " ++ regText x ++ "," ++ regText y

/-- Mnemonic, `Vx`, `kk`. -/
def textXK (mnemonic : String) (x : Nibble) (kk : Byte) : String :=
  mnemonic ++ " " ++ regText x ++ "," ++ numText kk.toNat

/-- The line of R85 for an instruction; the don't-care fields are not written. -/
def asmText : Instr → String
  | .cls _ => "CLS"
  | .ret _ => "RET"
  | .jp nnn => "JP " ++ addrText nnn
  | .call nnn => "CALL " ++ addrText nnn
  | .seImm x kk => textXK "SE" x kk
  | .sneImm x kk => textXK "SNE" x kk
  | .seReg x y => textXY "SE" x y
  | .ldImm x kk => textXK "LD" x kk
  | .addImm x kk => textXK "ADD" x kk
  | .ldReg x y => textXY "LD" x y
  | .orReg x y => textXY "OR" x y
  | .andReg x y => textXY "AND" x y
  | .xorReg x y => textXY "XOR" x y
  | .addReg x y => textXY "ADD" x y
  | .subReg x y => textXY "SUB" x y
  | .shr x _ => "SHR " ++ regText x
  | .subnReg x y => textXY "SUBN" x y
  | .shl x _ => "SHL " ++ regText x
  | .sneReg x y => textXY "SNE" x y
  | .ldI nnn => "LD I," ++ addrText nnn
  | .jpV0 nnn => "JP V0," ++ addrText nnn
  | .rnd x kk => textXK "RND" x kk
  | .drw x y n => textXY "DRW" x y ++ "," ++ numText n.toNat
  | .skp x => "SKP " ++ regText x
  | .sknp x => "SKNP " ++ regText x
  | .ldVxDt x => "LD " ++ regText x ++ ",DT"
  | .ldVxK x => "LD " ++ regText x ++ ",K"
  | .ldDtVx x => "LD DT," ++ regText x
  | .ldStVx x => "LD ST," ++ regText x
  | .addI x => "ADD I," ++ regText x
  | .ldF x => "LD F," ++ regText x
  | .ldB x => "LD B," ++ regText x
  | .storeRegs x => "LD [I]," ++ regText x
  | .loadRegs x => "LD " ++ regText x ++ ",[I]"

end Sys2Proof
end

