-- ==== Sys2Proof/Machine/HostInterface.lean ====
section
/-! DEFINITION. The host's operations on the core (48_host_interface.md R180 to R190, 70_reset_and_hazards.md R230 to
R232), and a run as ticks and host operations one after the other (R181). -/

namespace Sys2Proof.Machine

/-- The errors of a host operation, which never touch the fault latch (60_exceptions.md R207). -/
inductive HostError where
  /-- A program of more than 3584 bytes (R183). -/
  | programTooLarge
  /-- `SetKey` with an index above 15 (R186). -/
  | badKeyIndex
  deriving DecidableEq, Repr

/-- What a host operation that can be rejected answers; a rejected one changes no state (R207). -/
inductive HostResult where
  | done (s : State)
  | rejected (e : HostError)
  deriving DecidableEq, Repr

/-- `Reset()` (70_reset_and_hazards.md R230): every piece of the spec's state at its reset value. The model's own counter
goes on, so that a run after a reset takes fresh random bytes (log entry 2). -/
def hostReset (s : State) : State := { State.reset with draws := s.draws }

/-- `LoadProgram(bytes)` (R182, R183). When the host may call it is `Session.apply`'s matter (R184). -/
def loadProgram (bytes : List Byte) (s : State) : HostResult :=
  if bytes.length ≤ Config.progMax then .done { s with mem := s.mem.writeBytes Config.progBase bytes }
  else .rejected .programTooLarge

/-- `SetKey(index, pressed)` (R185): a press of a released key is recorded, a release clears the key, a repeated press
changes nothing, an index above 15 is rejected. -/
def setKey (index : Nat) (pressed : Bool) (s : State) : HostResult :=
  if h : index < Config.nKeys then
    if pressed && !s.key[index] then
      .done { s with key := s.key.set index true, lastKey := BitVec.ofNat 4 index, kp := true }
    else if !pressed then .done { s with key := s.key.set index false }
    else .done s
  else .rejected .badKeyIndex

/-- `ReadDisplay()` (R187): the whole grid; it changes no state. -/
def readDisplay (s : State) : Display := s.disp

/-- `AckRedraw()` (R187). -/
def ackRedraw (s : State) : State := { s with redraw := false }

/-- The "needs redraw" signal (10_state.md R38). -/
def redrawSignal (s : State) : Bool := s.redraw

/-- The fault report (R188): the cause's code and the record, visible at all times. -/
def faultReport (s : State) : Option (Nat × FaultRecord) := s.fault.map fun f => (faultCode f.cause, f)

/-- One element of a run (00_scope.md R13): a tick or a host operation. -/
inductive Event where
  | reset
  | loadProgram (bytes : List Byte)
  | setKey (index : Nat) (pressed : Bool)
  | readDisplay
  | ackRedraw
  | tick
  deriving DecidableEq, Repr

/-- What the host is given back by an event. -/
inductive Reply where
  | done
  | display (d : Display)
  | error (e : HostError)
  deriving DecidableEq, Repr

/-- The core and, beside its state, whether a `LoadProgram` is allowed now (R184): after a `Reset`, before the first tick,
once. -/
structure Session where
  core : State
  loadable : Bool
  deriving DecidableEq, Repr

/-- A run begins after a `Reset` (R190). -/
def Session.boot : Session := { core := State.reset, loadable := true }

/-- What one event leads to. `outsideModel` is `LoadProgram` at a time R184 puts outside the model. -/
inductive EventOutcome where
  | next (session : Session) (reply : Reply)
  | outsideModel
  | fault (r : Fault)
  | refused (r : Refusal)
  deriving Repr

/-- The session after a host operation: its state, or the same session and the error (R207). -/
def Session.afterHost (ss : Session) (loadable : Bool) : HostResult → EventOutcome
  | .done s => .next { core := s, loadable := loadable } .done
  | .rejected e => .next ss (.error e)

/-- The session after a tick, which ends the time for a load (R184). -/
def Session.afterTick : Host.Outcome State Fault Refusal → EventOutcome
  | .next s => .next { core := s, loadable := false } .done
  | .fault r => .fault r
  | .refused r => .refused r

/-- One event, whole, before the next (R181). A rejected load leaves the permission (log entry 7). -/
def Session.apply (ss : Session) : Event → EventOutcome
  | .reset => .next { core := hostReset ss.core, loadable := true } .done
  | .loadProgram bytes => if ss.loadable then ss.afterHost false (Machine.loadProgram bytes ss.core) else .outsideModel
  | .setKey index pressed => ss.afterHost ss.loadable (Machine.setKey index pressed ss.core)
  | .readDisplay => .next ss (.display (Machine.readDisplay ss.core))
  | .ackRedraw => .next { ss with core := Machine.ackRedraw ss.core } .done
  | .tick => Session.afterTick (step ss.core)

end Sys2Proof.Machine
end

