-- ==== Sys2Proof/Safety.lean ====
section
/-! DEFINITION. What counts as a good state and a reachable one, and the terms the claims use: which registers and bytes an
instruction may change, and equality of states apart from some fields. -/

namespace Sys2Proof.Machine

/-- The fault latch tells the truth about the state it froze (60_exceptions.md R201, R205): `pc` is still the faulting
instruction's, the bytes there are still its word, and the cause's condition still holds. -/
def FaultRecord.describes (f : FaultRecord) (s : State) : Prop :=
  f.pc = s.pc ∧ f.opcode = fetch s ∧
    match f.cause with
    | .unknownOpcode => decode Config.zeroGroupStrict f.opcode = .unknownOpcode
    | .stackOverflow => s.stack.length = Config.stackDepth ∧ ∃ nnn, f.opcode = encode (.call nnn)
    | .stackUnderflow => s.stack = [] ∧ ∃ ii, f.opcode = encode (.ret ii)
    | .keyIndexOutOfRange value =>
      value.toNat > 15 ∧ ∃ x, readReg s x = value ∧ (f.opcode = encode (.skp x) ∨ f.opcode = encode (.sknp x))

/-- A good state: memory in canonical form, at most 16 return addresses (10_state.md R34), never halted and blocked at once
(47_cycle_step.md R161), and a true fault latch. -/
structure State.Inv (s : State) : Prop where
  memoryCanonical : s.mem.wf
  stackBounded : s.stack.length ≤ Config.stackDepth
  oneCase : s.fault ≠ none → s.waiting = false
  latchTrue : ∀ f, s.fault = some f → f.describes s

/-- A running-phase state (47_cycle_step.md R161). -/
def State.Running (s : State) : Prop := s.fault = none ∧ s.waiting = false

/-- A good session: a good core, and, while the host may still load a program, one that is running at `PC_RESET` as `Reset`
left it (48_host_interface.md R184, the spec's D23; log entry 7). -/
structure Session.Inv (ss : Session) : Prop where
  coreInv : ss.core.Inv
  fresh : ss.loadable = true → ss.core.Running ∧ ss.core.pc = Config.pcReset

/-- The sessions a run can reach: any events in any order from the first `Reset` (00_scope.md R13). -/
inductive Session.Reachable : Session → Prop where
  | boot : Session.Reachable Session.boot
  | event {ss ss' : Session} {reply : Reply} (e : Event) :
      Session.Reachable ss → ss.apply e = .next ss' reply → Session.Reachable ss'

/-- Whether the instruction may write register `r` (10_state.md R23), Fx0A's later commit apart. -/
def writesReg (r : Nibble) : Instr → Bool
  | .cls _ => false
  | .ret _ => false
  | .jp _ => false
  | .call _ => false
  | .seImm _ _ => false
  | .sneImm _ _ => false
  | .seReg _ _ => false
  | .ldImm x _ => r == x
  | .addImm x _ => r == x
  | .ldReg x _ => r == x
  | .orReg x _ => r == x
  | .andReg x _ => r == x
  | .xorReg x _ => r == x
  | .addReg x _ => r == x || r == vf
  | .subReg x _ => r == x || r == vf
  | .shr x _ => r == x || r == vf
  | .subnReg x _ => r == x || r == vf
  | .shl x _ => r == x || r == vf
  | .sneReg _ _ => false
  | .ldI _ => false
  | .jpV0 _ => false
  | .rnd x _ => r == x
  | .drw _ _ _ => r == vf
  | .skp _ => false
  | .sknp _ => false
  | .ldVxDt x => r == x
  | .ldVxK _ => false
  | .ldDtVx _ => false
  | .ldStVx _ => false
  | .addI _ => false
  | .ldF _ => false
  | .ldB _ => false
  | .storeRegs _ => false
  | .loadRegs x => decide (r.toNat ≤ x.toNat)

/-- How many bytes the instruction stores, from address `I` upward (20_memory.md R56). -/
def bytesStored : Instr → Nat
  | .cls _ => 0
  | .ret _ => 0
  | .jp _ => 0
  | .call _ => 0
  | .seImm _ _ => 0
  | .sneImm _ _ => 0
  | .seReg _ _ => 0
  | .ldImm _ _ => 0
  | .addImm _ _ => 0
  | .ldReg _ _ => 0
  | .orReg _ _ => 0
  | .andReg _ _ => 0
  | .xorReg _ _ => 0
  | .addReg _ _ => 0
  | .subReg _ _ => 0
  | .shr _ _ => 0
  | .subnReg _ _ => 0
  | .shl _ _ => 0
  | .sneReg _ _ => 0
  | .ldI _ => 0
  | .jpV0 _ => 0
  | .rnd _ _ => 0
  | .drw _ _ _ => 0
  | .skp _ => 0
  | .sknp _ => 0
  | .ldVxDt _ => 0
  | .ldVxK _ => 0
  | .ldDtVx _ => 0
  | .ldStVx _ => 0
  | .addI _ => 0
  | .ldF _ => 0
  | .ldB _ => 3
  | .storeRegs x => x.toNat + 1
  | .loadRegs _ => 0

/-- The six instructions that write VF as a flag (10_state.md R26). -/
def setsFlag : Instr → Bool
  | .cls _ => false
  | .ret _ => false
  | .jp _ => false
  | .call _ => false
  | .seImm _ _ => false
  | .sneImm _ _ => false
  | .seReg _ _ => false
  | .ldImm _ _ => false
  | .addImm _ _ => false
  | .ldReg _ _ => false
  | .orReg _ _ => false
  | .andReg _ _ => false
  | .xorReg _ _ => false
  | .addReg _ _ => true
  | .subReg _ _ => true
  | .shr _ _ => true
  | .subnReg _ _ => true
  | .shl _ _ => true
  | .sneReg _ _ => false
  | .ldI _ => false
  | .jpV0 _ => false
  | .rnd _ _ => false
  | .drw _ _ _ => true
  | .skp _ => false
  | .sknp _ => false
  | .ldVxDt _ => false
  | .ldVxK _ => false
  | .ldDtVx _ => false
  | .ldStVx _ => false
  | .addI _ => false
  | .ldF _ => false
  | .ldB _ => false
  | .storeRegs _ => false
  | .loadRegs _ => false

/-- Where `pc` is after an instruction that raised no fault, from the table of 10_state.md R31, as a natural number. -/
def pcAfter (s : State) : Instr → Nat
  | .jp nnn => nnn.toNat
  | .call nnn => nnn.toNat
  | .jpV0 nnn => (nnn.toNat + (readReg s 0x0#4).toNat) % 65536
  | .ret _ => ((s.stack.getLast?.getD 0#16).toNat + 2) % 65536
  | .seImm x kk => if readReg s x = kk then (s.pc.toNat + 4) % 65536 else (s.pc.toNat + 2) % 65536
  | .sneImm x kk => if readReg s x ≠ kk then (s.pc.toNat + 4) % 65536 else (s.pc.toNat + 2) % 65536
  | .seReg x y => if readReg s x = readReg s y then (s.pc.toNat + 4) % 65536 else (s.pc.toNat + 2) % 65536
  | .sneReg x y => if readReg s x ≠ readReg s y then (s.pc.toNat + 4) % 65536 else (s.pc.toNat + 2) % 65536
  | .skp x => if keyPressed s (readReg s x) then (s.pc.toNat + 4) % 65536 else (s.pc.toNat + 2) % 65536
  | .sknp x => if keyPressed s (readReg s x) then (s.pc.toNat + 2) % 65536 else (s.pc.toNat + 4) % 65536
  | .ldVxK _ => s.pc.toNat
  | .cls _ => (s.pc.toNat + 2) % 65536
  | .ldImm _ _ => (s.pc.toNat + 2) % 65536
  | .addImm _ _ => (s.pc.toNat + 2) % 65536
  | .ldReg _ _ => (s.pc.toNat + 2) % 65536
  | .orReg _ _ => (s.pc.toNat + 2) % 65536
  | .andReg _ _ => (s.pc.toNat + 2) % 65536
  | .xorReg _ _ => (s.pc.toNat + 2) % 65536
  | .addReg _ _ => (s.pc.toNat + 2) % 65536
  | .subReg _ _ => (s.pc.toNat + 2) % 65536
  | .shr _ _ => (s.pc.toNat + 2) % 65536
  | .subnReg _ _ => (s.pc.toNat + 2) % 65536
  | .shl _ _ => (s.pc.toNat + 2) % 65536
  | .ldI _ => (s.pc.toNat + 2) % 65536
  | .rnd _ _ => (s.pc.toNat + 2) % 65536
  | .drw _ _ _ => (s.pc.toNat + 2) % 65536
  | .ldVxDt _ => (s.pc.toNat + 2) % 65536
  | .ldDtVx _ => (s.pc.toNat + 2) % 65536
  | .ldStVx _ => (s.pc.toNat + 2) % 65536
  | .addI _ => (s.pc.toNat + 2) % 65536
  | .ldF _ => (s.pc.toNat + 2) % 65536
  | .ldB _ => (s.pc.toNat + 2) % 65536
  | .storeRegs _ => (s.pc.toNat + 2) % 65536
  | .loadRegs _ => (s.pc.toNat + 2) % 65536

/-- Whether the sprite of R131, `n` rows of 8 pixels at (`vx`, `vy`) read from memory at `I`, has a set bit on the display
pixel (`row`, `col`), each sprite pixel wrapped on its own (43_display.md R133). -/
def SpriteCovers (s : State) (vx vy n row col : Nat) : Prop :=
  ∃ r < n, ∃ c < 8, (s.mem.read (s.I.toNat + r)).getLsbD (7 - c) = true ∧
    (vy + r) % 32 = row ∧ (vx + c) % 64 = col

end Sys2Proof.Machine
end

