-- ==== Sys2Proof/Certificates/Slice0/Obligations.lean ====
section
/-! DEFINITION. The statements for the provers, each from a numbered rule of spec/ named in its docstring. A docstring
says so where a statement rests on a choice the spec marks as its own (a decision D<n> of 92_eei_decisions.md, an item
G<n> of 93_implementation_defined.md) or on a log entry of this model. -/

open Sys2Proof Sys2Proof.Machine

/-! ### Encoding -/

/-- 30_encoding.md R81: a word selects a row of the table exactly when it decodes to that row's handler, at most one row
is selected, and a word that selects none is unknown; for both values of `ZERO_GROUP_STRICT`. -/
def Obligations.OpcodeMapSelectsHandler : Prop :=
  ∀ (strict : Bool) (w : Word),
    (∀ row ∈ opcodeTable strict,
      row.selects w = true ↔ ∃ i, decode strict w = .handler i ∧ i.mnemonic = row.mnemonic) ∧
    ((opcodeTable strict).filter fun row => row.selects w).length ≤ 1 ∧
    ((∀ row ∈ opcodeTable strict, row.selects w = false) ↔ decode strict w = .unknownOpcode)

/-- 30_encoding.md R71, R81: decoding the word of any well-formed instruction gives it back, every field at every value; the
bits R83 ignores are fields of the instruction by log entry 8. -/
def Obligations.DecodeEncodeRoundTrip : Prop :=
  ∀ (strict : Bool) (i : Instr), i.wf strict = true → decode strict (encode i) = .handler i

/-- 30_encoding.md R71, R73, R81, R83: every word that decodes is the word of its instruction, which is well formed. That no
bit is dropped, the bits R83 ignores among them, rests on log entry 8 (DESIGN CHOICE): the model's instruction carries them. -/
def Obligations.EncodeDecodeRoundTrip : Prop :=
  ∀ (strict : Bool) (w : Word) (i : Instr), decode strict w = .handler i → encode i = w ∧ i.wf strict = true

/-- R82: the unknown words under the default decoding, group by group, and under `ZERO_GROUP_STRICT`. Which selectors the
groups have is in part the spec's own choice (log entry 11): group 0x0 D4, groups 0x5 and 0x9 D5 (G5), group 0x8 D3, D6 (G8,
G9), groups 0xE and 0xF D3 (G10, G11). -/
def Obligations.UnknownWordsAreTheTabledOnes : Prop :=
  ∀ w : Word,
    (decode false w = .unknownOpcode ↔
      (opField w = 0x0#4 ∧ nField w ≠ 0x0#4 ∧ nField w ≠ 0xE#4) ∨
      (opField w = 0x5#4 ∧ nField w ≠ 0x0#4) ∨
      (opField w = 0x8#4 ∧ nField w ∈ [0x8#4, 0x9#4, 0xA#4, 0xB#4, 0xC#4, 0xD#4, 0xF#4]) ∨
      (opField w = 0x9#4 ∧ nField w ≠ 0x0#4) ∨
      (opField w = 0xE#4 ∧ kkField w ∉ [0x9E#8, 0xA1#8]) ∨
      (opField w = 0xF#4 ∧
        kkField w ∉ [0x07#8, 0x0A#8, 0x15#8, 0x18#8, 0x1E#8, 0x29#8, 0x33#8, 0x55#8, 0x65#8])) ∧
    (decode true w = .unknownOpcode ↔
      decode false w = .unknownOpcode ∨ (opField w = 0x0#4 ∧ w ≠ 0x00E0#16 ∧ w ≠ 0x00EE#16))

/-- Words of 95_test_vectors.md sections 1, 2.6, 2.7 and 2.8, and a bare sanity check. The source prints the opcode numbers of
00E0, 6005, 7003, A210, Cxkk, F029 and 5123; the others are the spec's own (log entry 11): 00EE G12, 2210 G3, 8AB4 G8, D123 G7,
E39E G10, FA15 G11, and 0120 under `ZERO_GROUP_STRICT` D4. -/
def Obligations.SampleWordsDecode : Prop :=
  decode false 0x00E0#16 = .handler (.cls 0x0E#8) ∧
  decode false 0x00EE#16 = .handler (.ret 0x0E#8) ∧
  decode false 0x2210#16 = .handler (.call 0x210#12) ∧
  decode false 0x6005#16 = .handler (.ldImm 0x0#4 0x05#8) ∧
  decode false 0x7003#16 = .handler (.addImm 0x0#4 0x03#8) ∧
  decode false 0x8AB4#16 = .handler (.addReg 0xA#4 0xB#4) ∧
  decode false 0xA210#16 = .handler (.ldI 0x210#12) ∧
  decode false 0xC30F#16 = .handler (.rnd 0x3#4 0x0F#8) ∧
  decode false 0xD123#16 = .handler (.drw 0x1#4 0x2#4 0x3#4) ∧
  decode false 0xE39E#16 = .handler (.skp 0x3#4) ∧
  decode false 0xF029#16 = .handler (.ldF 0x0#4) ∧
  decode false 0xFA15#16 = .handler (.ldDtVx 0xA#4) ∧
  decode false 0x5123#16 = .unknownOpcode ∧
  decode true 0x0120#16 = .unknownOpcode

/-! ### Memory -/

/-- 20_memory.md R50, R51 (no byte is read-only: D26): every access is masked modulo 4096; a byte written is read back at its
address, and every other address reads as before; a two-byte read masks byte by byte, and its first byte is the high one by
log entry 10 (PRESUMED by the spec: R53, D2, G1). -/
def Obligations.EveryAccessIsMaskedByteByByte : Prop :=
  ∀ (m : Memory) (addr a : Nat) (b : Byte),
    m.read addr = m.read (addr % 4096) ∧
    m.write addr b = m.write (addr % 4096) b ∧
    ((m.write addr b).read a = if a % 4096 = addr % 4096 then b else m.read a) ∧
    m.readWord addr = m.read (addr % 4096) ++ m.read ((addr + 1) % 4096)

/-! ### Flow control -/

/-- 40_flow_control.md R91, R97 (opcode numbers G2, G6, and Bnnn itself D7, are the spec's own): the word, and the whole
effect. -/
def Obligations.JumpsSetPc : Prop :=
  ∀ (strict : Bool) (nnn : Addr12) (s : State),
    decode strict (0x1#4 ++ nnn) = .handler (.jp nnn) ∧
    (∃ t, exec (.jp nnn) s = .next t ∧ t.pc.toNat = nnn.toNat ∧ t = { s with pc := t.pc }) ∧
    decode strict (0xB#4 ++ nnn) = .handler (.jpV0 nnn) ∧
    ∃ t, exec (.jpV0 nnn) s = .next t ∧ t.pc.toNat = nnn.toNat + (readReg s 0x0#4).toNat ∧ t = { s with pc := t.pc }

/-- R92 (number G3 and the fault D12 are the spec's own): the push of the current `pc`, or the fault on 16 entries. -/
def Obligations.CallPushesOrOverflows : Prop :=
  ∀ (strict : Bool) (nnn : Addr12) (s : State),
    decode strict (0x2#4 ++ nnn) = .handler (.call nnn) ∧
    (s.stack.length < 16 →
      exec (.call nnn) s = .next { s with stack := s.stack ++ [s.pc], pc := nnn.setWidth 16 }) ∧
    (s.stack.length = 16 →
      exec (.call nnn) s =
        .next { s with fault := some { cause := .stackOverflow, pc := s.pc, opcode := 0x2#4 ++ nnn } })

/-- R90 (the fault D12 is the spec's own): the pop, or the fault on an empty stack. -/
def Obligations.RetPopsOrUnderflows : Prop :=
  ∀ (ii : Byte) (s : State),
    decode false (0x0#4 ++ ii ++ 0xE#4) = .handler (.ret ii) ∧
    (∀ rest t, s.stack = rest ++ [t] → exec (.ret ii) s = .next { s with stack := rest, pc := t + 2#16 }) ∧
    (s.stack = [] →
      exec (.ret ii) s =
        .next { s with fault := some { cause := .stackUnderflow, pc := s.pc, opcode := 0x0#4 ++ ii ++ 0xE#4 } })

/-- R98: a CALL whose target holds a RET comes back to the CALL's address plus 2 in two ticks, the stack as before. -/
def Obligations.CallThenRetReturnsPastTheCall : Prop :=
  ∀ (s : State) (nnn : Addr12) (ii : Byte),
    s.Running → decode Config.zeroGroupStrict (s.mem.readWord s.pc.toNat) = .handler (.call nnn) →
    s.stack.length < 16 → decode Config.zeroGroupStrict (s.mem.readWord nnn.toNat) = .handler (.ret ii) →
    ∃ u t, step s = .next u ∧ u.pc.toNat = nnn.toNat ∧ u.stack = s.stack ++ [s.pc] ∧
      step u = .next t ∧ t = { s with pc := s.pc + 2#16, dt := t.dt, st := t.st }

/-- R93 to R96 (numbers G4, G5, D5 are the spec's own): the four register skips, each with the whole effect. -/
def Obligations.SkipsMovePcByFourOrTwo : Prop :=
  ∀ (x y : Nibble) (kk : Byte) (s : State),
    exec (.seImm x kk) s = .next { s with pc := s.pc + if readReg s x = kk then 4#16 else 2#16 } ∧
    exec (.sneImm x kk) s = .next { s with pc := s.pc + if readReg s x = kk then 2#16 else 4#16 } ∧
    exec (.seReg x y) s = .next { s with pc := s.pc + if readReg s x = readReg s y then 4#16 else 2#16 } ∧
    exec (.sneReg x y) s = .next { s with pc := s.pc + if readReg s x = readReg s y then 2#16 else 4#16 }

/-! ### Arithmetic and logic -/

/-- 41_arithmetic_logic.md R100: the word and the whole effect. -/
def Obligations.LoadImmediate : Prop :=
  ∀ (strict : Bool) (x : Nibble) (kk : Byte) (s : State),
    decode strict (0x6#4 ++ x ++ kk) = .handler (.ldImm x kk) ∧
    ∃ t, exec (.ldImm x kk) s = .next t ∧
      (∀ r, readReg t r = if r = x then kk else readReg s r) ∧ t = { s with v := t.v, pc := s.pc + 2#16 }

/-- R101: the word, the sum modulo 256, and no flag. -/
def Obligations.AddImmediateWrapsWithoutFlag : Prop :=
  ∀ (strict : Bool) (x : Nibble) (kk : Byte) (s : State),
    decode strict (0x7#4 ++ x ++ kk) = .handler (.addImm x kk) ∧
    ∃ t, exec (.addImm x kk) s = .next t ∧
      (∀ r, (readReg t r).toNat =
        if r = x then ((readReg s x).toNat + kk.toNat) % 256 else (readReg s r).toNat) ∧
      t = { s with v := t.v, pc := s.pc + 2#16 }

/-- R102 to R105 (8xy0 is D6; the untouched VF is D9): the move and the logic operations, each with the whole effect. -/
def Obligations.MoveAndLogicWriteOnlyVx : Prop :=
  ∀ (x y : Nibble) (s : State),
    (∃ t, exec (.ldReg x y) s = .next t ∧ (∀ r, readReg t r = if r = x then readReg s y else readReg s r) ∧
      t = { s with v := t.v, pc := s.pc + 2#16 }) ∧
    (∃ t, exec (.orReg x y) s = .next t ∧
      (∀ r, readReg t r = if r = x then readReg s x ||| readReg s y else readReg s r) ∧
      t = { s with v := t.v, pc := s.pc + 2#16 }) ∧
    (∃ t, exec (.andReg x y) s = .next t ∧
      (∀ r, readReg t r = if r = x then readReg s x &&& readReg s y else readReg s r) ∧
      t = { s with v := t.v, pc := s.pc + 2#16 }) ∧
    ∃ t, exec (.xorReg x y) s = .next t ∧
      (∀ r, readReg t r = if r = x then readReg s x ^^^ readReg s y else readReg s r) ∧
      t = { s with v := t.v, pc := s.pc + 2#16 }

/-- R106 (the order of the writes when `x` is 15 is D8): the sum modulo 256, then the carry in VF, last. -/
def Obligations.AddRegisterSetsCarryLast : Prop :=
  ∀ (x y : Nibble) (s : State),
    ∃ t, exec (.addReg x y) s = .next t ∧
      (∀ r, (readReg t r).toNat =
        if r = 0xF#4 then (if (readReg s x).toNat + (readReg s y).toNat > 255 then 1 else 0)
        else if r = x then ((readReg s x).toNat + (readReg s y).toNat) % 256
        else (readReg s r).toNat) ∧
      t = { s with v := t.v, pc := s.pc + 2#16 }

/-- R107, R109 (which register is the minuend is D27; the order of the writes D8): the difference modulo 256, then 1 in
VF exactly when there is no borrow. -/
def Obligations.SubtractionsSetNoBorrowLast : Prop :=
  ∀ (x y : Nibble) (s : State),
    (∃ t, exec (.subReg x y) s = .next t ∧
      (∀ r, (readReg t r).toNat =
        if r = 0xF#4 then (if (readReg s x).toNat ≥ (readReg s y).toNat then 1 else 0)
        else if r = x then ((readReg s x).toNat + 256 - (readReg s y).toNat) % 256
        else (readReg s r).toNat) ∧
      t = { s with v := t.v, pc := s.pc + 2#16 }) ∧
    ∃ t, exec (.subnReg x y) s = .next t ∧
      (∀ r, (readReg t r).toNat =
        if r = 0xF#4 then (if (readReg s y).toNat ≥ (readReg s x).toNat then 1 else 0)
        else if r = x then ((readReg s y).toNat + 256 - (readReg s x).toNat) % 256
        else (readReg s r).toNat) ∧
      t = { s with v := t.v, pc := s.pc + 2#16 }

/-- R108, R110 (the order of the writes is D8): one bit of shift, the bit shifted out in VF, and `y` without effect. -/
def Obligations.ShiftsCaptureTheBitShiftedOut : Prop :=
  ∀ (x y : Nibble) (s : State),
    (∃ t, exec (.shr x y) s = .next t ∧
      (∀ r, (readReg t r).toNat =
        if r = 0xF#4 then (readReg s x).toNat % 2
        else if r = x then (readReg s x).toNat / 2
        else (readReg s r).toNat) ∧
      t = { s with v := t.v, pc := s.pc + 2#16 }) ∧
    ∃ t, exec (.shl x y) s = .next t ∧
      (∀ r, (readReg t r).toNat =
        if r = 0xF#4 then (readReg s x).toNat / 128
        else if r = x then (readReg s x).toNat * 2 % 256
        else (readReg s r).toNat) ∧
      t = { s with v := t.v, pc := s.pc + 2#16 }

/-! ### Index register and memory transfer -/

/-- 42_memory_index.md R120: the word and the whole effect. -/
def Obligations.LoadIndex : Prop :=
  ∀ (strict : Bool) (nnn : Addr12) (s : State),
    decode strict (0xA#4 ++ nnn) = .handler (.ldI nnn) ∧
    ∃ t, exec (.ldI nnn) s = .next t ∧ t.I.toNat = nnn.toNat ∧ t = { s with I := t.I, pc := s.pc + 2#16 }

/-- R121, R122 (16 bits and no mask are D10, no flag D9, a digit above 15 D14, the stride G14): the whole effect of the two other writers
of `I`. -/
def Obligations.AddIndexAndFontLookup : Prop :=
  ∀ (x : Nibble) (s : State),
    (∃ t, exec (.addI x) s = .next t ∧ t.I.toNat = (s.I.toNat + (readReg s x).toNat) % 65536 ∧
      t = { s with I := t.I, pc := s.pc + 2#16 }) ∧
    ∃ t, exec (.ldF x) s = .next t ∧ t.I.toNat = 5 * (readReg s x).toNat ∧
      t = { s with I := t.I, pc := s.pc + 2#16 }

/-- R123 (the unchanged `I` is D24, log entry 11): the word; the three digits at `I`, `I + 1`, `I + 2`; every other byte, and
all else, as before. -/
def Obligations.BcdStoresThreeDigits : Prop :=
  ∀ (strict : Bool) (x : Nibble) (s : State),
    decode strict (0xF#4 ++ x ++ 0x33#8) = .handler (.ldB x) ∧
    ∃ t, exec (.ldB x) s = .next t ∧
      (t.mem.read s.I.toNat).toNat = (readReg s x).toNat / 100 ∧
      (t.mem.read (s.I.toNat + 1)).toNat = (readReg s x).toNat / 10 % 10 ∧
      (t.mem.read (s.I.toNat + 2)).toNat = (readReg s x).toNat % 10 ∧
      (∀ a, (∀ k < 3, (s.I.toNat + k) % 4096 ≠ a % 4096) → t.mem.read a = s.mem.read a) ∧
      t = { s with mem := t.mem, pc := s.pc + 2#16 }

/-- R124 (the number is G11, the unchanged `I` D24): `V[0]` to `V[x]` at `I` upward; every other byte, and all else, as
before. -/
def Obligations.RegisterDumpStoresV0ToVx : Prop :=
  ∀ (x : Nibble) (s : State),
    ∃ t, exec (.storeRegs x) s = .next t ∧
      (∀ r : Nibble, r.toNat ≤ x.toNat → t.mem.read (s.I.toNat + r.toNat) = readReg s r) ∧
      (∀ a, (∀ k ≤ x.toNat, (s.I.toNat + k) % 4096 ≠ a % 4096) → t.mem.read a = s.mem.read a) ∧
      t = { s with mem := t.mem, pc := s.pc + 2#16 }

/-- R125 (the number is G11, the unchanged `I` D24): `V[0]` to `V[x]` from `I` upward; every other register, and all else,
as before. -/
def Obligations.RegisterLoadFillsV0ToVx : Prop :=
  ∀ (x : Nibble) (s : State),
    ∃ t, exec (.loadRegs x) s = .next t ∧
      (∀ r : Nibble, readReg t r =
        if r.toNat ≤ x.toNat then s.mem.read (s.I.toNat + r.toNat) else readReg s r) ∧
      t = { s with v := t.v, pc := s.pc + 2#16 }

/-- R124 then R125: a dump and a later load with the same `x`, whatever the registers became meanwhile, restores `V[0]` to
`V[x]`. It is so because the dump leaves `I` alone, the spec's own choice D24 (R126; log entry 11). -/
def Obligations.DumpThenLoadRestoresRegisters : Prop :=
  ∀ (x : Nibble) (s t u : State) (scratch : Vector Byte 16),
    exec (.storeRegs x) s = .next t → exec (.loadRegs x) { t with v := scratch } = .next u →
    ∀ r : Nibble, r.toNat ≤ x.toNat → readReg u r = readReg s r

/-! ### Display -/

/-- 43_display.md R130: the word, every pixel off, `redraw` set, VF and all else as before. -/
def Obligations.ClsClearsEveryPixel : Prop :=
  ∀ (ii : Byte) (s : State),
    decode false (0x0#4 ++ ii ++ 0x0#4) = .handler (.cls ii) ∧
    ∃ t, exec (.cls ii) s = .next t ∧ (∀ row col, t.disp.pixel row col = false) ∧
      t = { s with disp := t.disp, redraw := true, pc := s.pc + 2#16 }

/-- R131, R133 (bit order and height 0 are D15, the number G7, the write order D8): the loop inverts exactly the pixels the
sprite covers, and VF is 1 exactly when some pixel went from on to off. -/
def Obligations.DrwInvertsCoveredPixels : Prop :=
  ∀ (x y n : Nibble) (s : State),
    ∃ t, exec (.drw x y n) s = .next t ∧
      (∀ row < 32, ∀ col < 64,
        (SpriteCovers s (readReg s x).toNat (readReg s y).toNat n.toNat row col →
          t.disp.pixel row col = !s.disp.pixel row col) ∧
        (¬ SpriteCovers s (readReg s x).toNat (readReg s y).toNat n.toNat row col →
          t.disp.pixel row col = s.disp.pixel row col)) ∧
      (readReg t 0xF#4 = 1#8 ↔
        ∃ row < 32, ∃ col < 64, s.disp.pixel row col = true ∧ t.disp.pixel row col = false) ∧
      (readReg t 0xF#4 = 0#8 ∨ readReg t 0xF#4 = 1#8) ∧
      (∀ r : Nibble, r ≠ 0xF#4 → readReg t r = readReg s r) ∧
      t = { s with v := t.v, disp := t.disp, redraw := true, pc := s.pc + 2#16 }

/-- R134: the same draw twice restores the display; `x` and `y` are not VF, which the first draw writes. -/
def Obligations.DrawTwiceRestoresTheDisplay : Prop :=
  ∀ (x y n : Nibble) (s t u : State), x ≠ 0xF#4 → y ≠ 0xF#4 →
    exec (.drw x y n) s = .next t → exec (.drw x y n) t = .next u → u.disp = s.disp

/-! ### Timers -/

/-- 44_timers.md R140 to R142 (numbers G11): the three transfers, each with the whole effect of the handler. -/
def Obligations.TimerTransfers : Prop :=
  ∀ (x : Nibble) (s : State),
    (∃ t, exec (.ldVxDt x) s = .next t ∧ (∀ r, readReg t r = if r = x then s.dt else readReg s r) ∧
      t = { s with v := t.v, pc := s.pc + 2#16 }) ∧
    exec (.ldDtVx x) s = .next { s with dt := readReg s x, pc := s.pc + 2#16 } ∧
    exec (.ldStVx x) s = .next { s with st := readReg s x, pc := s.pc + 2#16 }

/-- 47_cycle_step.md R166: each timer one toward 0, never below, independently, and nothing else. -/
def Obligations.TimerTickCountsTowardZero : Prop :=
  ∀ s : State,
    (timerTick s).dt.toNat = (if s.dt.toNat > 0 then s.dt.toNat - 1 else 0) ∧
    (timerTick s).st.toNat = (if s.st.toNat > 0 then s.st.toNat - 1 else 0) ∧
    timerTick s = { s with dt := (timerTick s).dt, st := (timerTick s).st }

/-- R165 (its place in the entry tick and the faulting tick is D16, D18) and R144: which ticks count the timers down, and
that a count follows the handler's own write. -/
def Obligations.TimersFallOnlyInRunningTicks : Prop :=
  ∀ s t : State, step s = .next t →
    (¬ s.Running ∨ t.fault ≠ none → t.dt = s.dt ∧ t.st = s.st) ∧
    (s.Running → t.fault = none → ∀ i, decode Config.zeroGroupStrict (fetch s) = .handler i →
      ((∀ x, i ≠ .ldDtVx x) → t.dt.toNat = s.dt.toNat - 1) ∧
      ((∀ x, i ≠ .ldStVx x) → t.st.toNat = s.st.toNat - 1) ∧
      (∀ x, i = .ldDtVx x → t.dt.toNat = (readReg s x).toNat - 1) ∧
      (∀ x, i = .ldStVx x → t.st.toNat = (readReg s x).toNat - 1))

/-! ### Keys -/

/-- 45_keys.md R145, R146 (numbers G10): the key skips on an existing key, with the whole effect. -/
def Obligations.KeySkipsTestTheKey : Prop :=
  ∀ (x : Nibble) (s : State) (h : (readReg s x).toNat < 16),
    exec (.skp x) s = .next { s with pc := s.pc + if s.key[(readReg s x).toNat] then 4#16 else 2#16 } ∧
    exec (.sknp x) s = .next { s with pc := s.pc + if s.key[(readReg s x).toNat] then 2#16 else 4#16 }

/-- R149 (the spec's own choice D13): above 15 the key skips raise. That the latch alone changes, and what it records, are R201
and R205 under the spec's own choice D18 (log entry 11). -/
def Obligations.KeySkipsRaiseAboveFifteen : Prop :=
  ∀ (x : Nibble) (s : State), (readReg s x).toNat > 15 →
    exec (.skp x) s =
      .next { s with
        fault := some { cause := .keyIndexOutOfRange (readReg s x), pc := s.pc, opcode := 0xE#4 ++ x ++ 0x9E#8 } } ∧
    exec (.sknp x) s =
      .next { s with
        fault := some { cause := .keyIndexOutOfRange (readReg s x), pc := s.pc, opcode := 0xE#4 ++ x ++ 0xA1#8 } }

/-- R147: the word, the whole effect of the handler, and of the tick that runs it. -/
def Obligations.KeyWaitEntryRecordsTarget : Prop :=
  ∀ (strict : Bool) (x : Nibble) (s : State),
    decode strict (0xF#4 ++ x ++ 0x0A#8) = .handler (.ldVxK x) ∧
    exec (.ldVxK x) s = .next { s with waiting := true, kp := false, wx := x } ∧
    (s.Running → decode strict (fetch s) = .handler (.ldVxK x) →
      tick strict s = .next
        { s with waiting := true, kp := false, wx := x, dt := countDown s.dt, st := countDown s.st })

/-- R148, R164: the poll of a blocked tick, which commits once a press was seen and otherwise changes nothing, ticks no
timer and reads no memory. The bookkeeping with `kp` and `wx`, and that the commit tick counts no timer, are the spec's own
choice D16 (log entry 11). -/
def Obligations.BlockedTickCommitsOrWaits : Prop :=
  ∀ s : State, s.fault = none → s.waiting = true →
    (s.kp = false → step s = .next s) ∧
    (s.kp = true → ∃ t, step s = .next t ∧
      (∀ r, (readReg t r).toNat = if r = s.wx then s.lastKey.toNat else (readReg s r).toNat) ∧
      t = { s with v := t.v, pc := s.pc + 2#16, waiting := false, kp := false }) ∧
    ∀ m, ∃ t t', step s = .next t ∧ step { s with mem := m } = .next t' ∧ t' = { t with mem := m }

/-- R147, R148, R150 (the bookkeeping is D16; that pressing a held key again is nothing is D17, R186): the key-wait whole. The entry does not move `pc`; any number of blocked
ticks change nothing; a press of a released key, then one tick, puts the key in `Vx`, moves `pc` by 2 and goes on. -/
def Obligations.KeyWaitEndsOnAPress : Prop :=
  ∀ (s : State) (x : Nibble), s.Running → decode Config.zeroGroupStrict (fetch s) = .handler (.ldVxK x) →
    ∃ u, step s = .next u ∧ u.pc = s.pc ∧ u.v = s.v ∧
      (∀ n, core.run n u = .next u) ∧
      ∀ (k : Nat) (hk : k < 16),
        (s.key[k] = true → setKey k true u = .done u) ∧
        (s.key[k] = false → ∃ p t, setKey k true u = .done p ∧ step p = .next t ∧
          (∀ r, (readReg t r).toNat = if r = x then k else (readReg s r).toNat) ∧
          t.pc = s.pc + 2#16 ∧ t.Running ∧ t.mem = s.mem ∧ t.dt = u.dt ∧ t.st = u.st)

/-! ### Random -/

/-- 46_random.md R155, for every byte the free value `Config.rand` may be (R156; log entry 2): the word and the whole
effect; `draws` is the model's own counter. -/
def Obligations.RndMasksTheRandomByte : Prop :=
  ∀ (strict : Bool) (x : Nibble) (kk : Byte) (s : State),
    decode strict (0xC#4 ++ x ++ kk) = .handler (.rnd x kk) ∧
    ∃ t, exec (.rnd x kk) s = .next t ∧
      (∀ r, readReg t r = if r = x then Config.rand s.draws &&& kk else readReg s r) ∧
      readReg t x &&& ~~~kk = 0#8 ∧
      t = { s with v := t.v, pc := s.pc + 2#16, draws := s.draws + 1 }

/-! ### What an instruction leaves alone -/

/-- 10_state.md R23: no instruction writes a general register that R23 does not name for it. -/
def Obligations.RegistersFrame : Prop :=
  ∀ (i : Instr) (s t : State) (r : Nibble),
    exec i s = .next t → writesReg r i = false → readReg t r = readReg s r

/-- R26 (the other instructions' silence about VF is D9): a flag-setter leaves exactly 0 or 1 in VF, and no other
instruction writes VF unless it names it as a destination. -/
def Obligations.VfIsWrittenOnlyAsTabled : Prop :=
  ∀ (i : Instr) (s t : State), exec i s = .next t →
    (setsFlag i = true → readReg t 0xF#4 = 0#8 ∨ readReg t 0xF#4 = 1#8) ∧
    (setsFlag i = false → writesReg 0xF#4 i = false → readReg t 0xF#4 = readReg s 0xF#4)

/-- 20_memory.md R51, R56: no instruction changes a byte it does not store to; the stored bytes start at `I`. -/
def Obligations.MemoryFrame : Prop :=
  ∀ (i : Instr) (s t : State) (a : Nat), exec i s = .next t →
    (∀ k < bytesStored i, (s.I.toNat + k) % 4096 ≠ a % 4096) → t.mem.read a = s.mem.read a

/-- 10_state.md section 1, the column 'written by': every other piece of the spec's state is changed by its writers only (for
`I` D24, for `kp` and `wx` D16, for the latch D18); and the model's own counter `draws`, which is no state of the spec, by Cxkk
only (log entry 2, DESIGN CHOICE). -/
def Obligations.OtherStateFrame : Prop :=
  ∀ (i : Instr) (s t : State), exec i s = .next t →
    t.key = s.key ∧ t.lastKey = s.lastKey ∧
    ((∀ nnn, i ≠ .ldI nnn) → (∀ x, i ≠ .addI x) → (∀ x, i ≠ .ldF x) → t.I = s.I) ∧
    ((∀ nnn, i ≠ .call nnn) → (∀ ii, i ≠ .ret ii) → t.stack = s.stack) ∧
    ((∀ x, i ≠ .ldDtVx x) → t.dt = s.dt) ∧
    ((∀ x, i ≠ .ldStVx x) → t.st = s.st) ∧
    ((∀ ii, i ≠ .cls ii) → (∀ x y n, i ≠ .drw x y n) → t.disp = s.disp ∧ t.redraw = s.redraw) ∧
    ((∀ x, i ≠ .ldVxK x) → t.waiting = s.waiting ∧ t.kp = s.kp ∧ t.wx = s.wx) ∧
    ((∀ nnn, i ≠ .call nnn) → (∀ ii, i ≠ .ret ii) → (∀ x, i ≠ .skp x) → (∀ x, i ≠ .sknp x) →
      t.fault = s.fault) ∧
    ((∀ x kk, i ≠ .rnd x kk) → t.draws = s.draws)

/-- 10_state.md R31: where `pc` goes, for every instruction, for the commit, and for a raise. -/
def Obligations.PcMovesAsTabled : Prop :=
  (∀ (i : Instr) (s t : State), s.fault = none → exec i s = .next t →
    (t.fault = none → t.pc.toNat = pcAfter s i) ∧ (t.fault ≠ none → t.pc = s.pc)) ∧
  ∀ s : State, s.fault = none → s.waiting = true → s.kp = true →
    ∃ t, step s = .next t ∧ t.pc.toNat = (s.pc.toNat + 2) % 65536

/-! ### The tick -/

/-- 47_cycle_step.md R163 with R162's end of the tick: when the two bytes at `pc`, the first the high one, decode to an
instruction, a running tick is that instruction's effect and then, when it raised nothing, the timer tick. -/
def Obligations.StepRunsTheDecodedInstruction : Prop :=
  ∀ (s : State) (i : Instr), s.Running →
    decodeBytes Config.zeroGroupStrict (s.mem.read s.pc.toNat) (s.mem.read (s.pc.toNat + 1)) = .handler i →
    (∀ t, exec i s = .next t → t.fault = none → step s = .next (timerTick t)) ∧
    (∀ t, exec i s = .next t → t.fault ≠ none → step s = .next t) ∧
    ∃ t, exec i s = .next t

/-- 60_exceptions.md R202: a word with no handler raises before anything else happens. -/
def Obligations.UnknownWordRaises : Prop :=
  ∀ s : State, s.Running → decode Config.zeroGroupStrict (fetch s) = .unknownOpcode →
    step s = .next { s with fault := some { cause := .unknownOpcode, pc := s.pc, opcode := fetch s } }

/-- R167, R206 (the spec's own choice D18): a halted tick changes nothing, and no number of them does. -/
def Obligations.HaltedTicksChangeNothing : Prop :=
  ∀ (s : State) (n : Nat), s.fault ≠ none → core.run n s = .next s

/-- R205 (the spec's own choice D18): a tick that raises came from the running phase and changed the latch alone, which
names the `pc` and the word at `pc`. -/
def Obligations.FaultingTickSetsOnlyTheLatch : Prop :=
  ∀ s t : State, s.fault = none → step s = .next t → t.fault ≠ none →
    s.waiting = false ∧
    ∃ cause, t = { s with fault := some { cause := cause, pc := s.pc, opcode := fetch s } }

/-- Every tick ends in a next state: no state and no word stops the machine with a fault or a refusal of the model
(R162; log entry 1: a raise is a next state). -/
def Obligations.EveryTickAnswersANextState : Prop :=
  ∀ (strict : Bool) (s : State), ∃ t, tick strict s = .next t

/-! ### Invariants -/

/-- Every step keeps `State.Inv`: canonical memory, at most 16 return addresses (R34, R35), never halted and blocked at
once (R161), and a fault latch that describes the state it froze (R201, R205). -/
def Obligations.StepKeepsInv : Prop :=
  ∀ s t : State, s.Inv → step s = .next t → t.Inv

/-- The reset state meets `State.Inv`. -/
def Obligations.ResetMeetsInv : Prop := State.reset.Inv

/-- Every host operation the core accepts keeps `State.Inv`; a load does so when nothing is latched, as after a reset. -/
def Obligations.HostOperationsKeepInv : Prop :=
  ∀ s : State, s.Inv →
    (hostReset s).Inv ∧ (ackRedraw s).Inv ∧
    (∀ index pressed t, setKey index pressed s = .done t → t.Inv) ∧
    ∀ bytes t, s.fault = none → loadProgram bytes s = .done t → t.Inv

/-- 48_host_interface.md R181, R184 (D23; log entry 7), R190: from every session that meets `Session.Inv`, reached or not, every
event that leads to a next session leads to one that meets it; so every session a run reaches meets it, whatever the host
loads, presses, acknowledges and resets between ticks. -/
def Obligations.ReachableSessionsMeetInv : Prop :=
  (∀ (ss ss' : Session) (e : Event) (reply : Reply), ss.Inv → ss.apply e = .next ss' reply → ss'.Inv) ∧
  ∀ ss : Session, ss.Reachable → ss.Inv

/-- R206 (D18): once set, the latch keeps its record through every event but `Reset`. -/
def Obligations.FaultLatchIsSticky : Prop :=
  ∀ (ss ss' : Session) (e : Event) (reply : Reply) (f : FaultRecord),
    ss.core.fault = some f → e ≠ .reset → ss.apply e = .next ss' reply → ss'.core.fault = some f

/-! ### Reset and the host -/

/-- 10_state.md R45 (values by D16, D18, D19; `last_key` and `wx`, unspecified there, are left out): the state after
`Reset`. -/
def Obligations.ResetValues : Prop :=
  State.reset.pc = 0x200#16 ∧ State.reset.I = 0#16 ∧ (∀ r, readReg State.reset r = 0#8) ∧
  State.reset.stack = [] ∧ State.reset.dt = 0#8 ∧ State.reset.st = 0#8 ∧
  (∀ row col, State.reset.disp.pixel row col = false) ∧ State.reset.redraw = true ∧
  (∀ k (h : k < 16), State.reset.key[k] = false) ∧ State.reset.waiting = false ∧ State.reset.kp = false ∧
  State.reset.fault = none ∧ (∀ a, 0x50 ≤ a → a < 4096 → State.reset.mem.read a = 0#8)

/-- 20_memory.md R58 with 42_memory_index.md R122 (the spec's G14, D20): the 80 font bytes after `Reset`, and, while memory
is as reset left it, the lookup of a digit puts `I` at that digit's five bytes. -/
def Obligations.FontAfterReset : Prop :=
  ((List.range 80).map (fun a => (State.reset.mem.read a).toNat) =
    [0xF0, 0x90, 0x90, 0x90, 0xF0] ++ [0x20, 0x60, 0x20, 0x20, 0x70] ++ [0xF0, 0x10, 0xF0, 0x80, 0xF0] ++
    [0xF0, 0x10, 0xF0, 0x10, 0xF0] ++ [0x90, 0x90, 0xF0, 0x10, 0x10] ++ [0xF0, 0x80, 0xF0, 0x10, 0xF0] ++
    [0xF0, 0x80, 0xF0, 0x90, 0xF0] ++ [0xF0, 0x10, 0x20, 0x40, 0x40] ++ [0xF0, 0x90, 0xF0, 0x90, 0xF0] ++
    [0xF0, 0x90, 0xF0, 0x10, 0xF0] ++ [0xF0, 0x90, 0xF0, 0x90, 0x90] ++ [0xE0, 0x90, 0xE0, 0x90, 0xE0] ++
    [0xF0, 0x80, 0x80, 0x80, 0xF0] ++ [0xE0, 0x90, 0x90, 0x90, 0xE0] ++ [0xF0, 0x80, 0xF0, 0x80, 0xF0] ++
    [0xF0, 0x80, 0xF0, 0x80, 0x80]) ∧
  ∀ (x : Nibble) (s : State), s.mem = State.reset.mem → (readReg s x).toNat < 16 →
    ∃ t, exec (.ldF x) s = .next t ∧
      (List.range 5).map (fun k => t.mem.read (t.I.toNat + k)) =
        (List.range 5).map fun k => State.reset.mem.read (5 * (readReg s x).toNat + k)

/-- 70_reset_and_hazards.md R231 (D19): after `Reset` the previous run leaves no trace in the spec's state, and the core runs
(the empty latch is D18, the phase D16). That `last_key` and `wx`, which R45 leaves unspecified, come back to 0 is the model's
own choice, log entries 3 and 4 (DESIGN CHOICE); `draws`, which is kept, is the model's own counter, log entry 2. -/
def Obligations.ResetLeavesNoTrace : Prop :=
  ∀ s : State, hostReset s = { State.reset with draws := s.draws } ∧ (hostReset s).Running

/-- 48_host_interface.md R182: the bytes at 0x200 upward, every other byte and all else as before. -/
def Obligations.LoadProgramPlacesBytes : Prop :=
  ∀ (bytes : List Byte) (s : State), bytes.length ≤ 3584 →
    ∃ t, loadProgram bytes s = .done t ∧
      (∀ i (h : i < bytes.length), t.mem.read (0x200 + i) = bytes[i]) ∧
      (∀ a < 4096, a < 0x200 ∨ 0x200 + bytes.length ≤ a → t.mem.read a = s.mem.read a) ∧
      (bytes = [] → t = s) ∧
      t = { s with mem := t.mem }

/-- R183, R207: a longer program is rejected, no core state changes, and the caller is told. That the session may still load
after the rejection is the model's own choice, log entry 7. -/
def Obligations.OversizedLoadIsRejectedWhole : Prop :=
  ∀ (bytes : List Byte) (ss : Session), bytes.length > 3584 → ss.loadable = true →
    loadProgram bytes ss.core = .rejected .programTooLarge ∧
    ss.apply (.loadProgram bytes) = .next ss (.error .programTooLarge)

/-- R184 (the spec's own choice D23; log entry 7): a load is outside the model after a tick and after a load, whatever host
operations but `Reset` came since. `Reset` gives the permission, and with it a program of at most 3584 bytes is accepted: the
core is the loaded one (R182), and the permission is gone. -/
def Obligations.LoadOnlyBeforeTheFirstTick : Prop :=
  ∀ (ss ss' : Session) (reply : Reply) (bytes : List Byte),
    (ss.loadable = false → ss.apply (.loadProgram bytes) = .outsideModel) ∧
    (ss.loadable = true → bytes.length ≤ 3584 →
      ∃ t, loadProgram bytes ss.core = .done t ∧
        ss.apply (.loadProgram bytes) = .next { core := t, loadable := false } .done) ∧
    (ss.apply .tick = .next ss' reply → ss'.loadable = false) ∧
    (ss.apply (.loadProgram bytes) = .next ss' .done → ss'.loadable = false) ∧
    (ss.apply .reset = .next ss' reply → ss'.loadable = true) ∧
    (∀ e, e ≠ .reset → ss.loadable = false → ss.apply e = .next ss' reply → ss'.loadable = false)

/-- R185 (its details are D17, R186): a press of a released key, a release, a repeated press, an index above 15. -/
def Obligations.SetKeyRecordsPresses : Prop :=
  ∀ (s : State) (index : Nat) (pressed : Bool),
    (index > 15 → setKey index pressed s = .rejected .badKeyIndex) ∧
    ∀ h : index < 16,
      (pressed = true → s.key[index] = false →
        setKey index pressed s =
          .done { s with key := s.key.set index true, lastKey := BitVec.ofNat 4 index, kp := true }) ∧
      (pressed = true → s.key[index] = true → setKey index pressed s = .done s) ∧
      (pressed = false → setKey index pressed s = .done { s with key := s.key.set index false })

/-- R187 (who clears `redraw` is D28): the host reads the grid with no change, and acknowledges `redraw` and nothing else;
and a tick after an acknowledgement does what it does without one, `redraw` apart (R190). -/
def Obligations.DisplayReadAndAcknowledge : Prop :=
  ∀ ss : Session,
    ss.apply .readDisplay = .next ss (.display ss.core.disp) ∧
    ∃ acked, acked = { ss with core := { ss.core with redraw := false } } ∧ ss.apply .ackRedraw = .next acked .done ∧
      ∃ t u, ss.apply .tick = .next t .done ∧ acked.apply .tick = .next u .done ∧
        u = { t with core := { t.core with redraw := u.core.redraw } }

/-! ### What is not read -/

/-- 00_scope.md R14: but for Cxkk, no instruction depends on the random input. It is said through the model's own counter
`draws`, the argument of the free value `Config.rand` (log entry 2, DESIGN CHOICE): no other instruction reads it or changes
it. -/
def Obligations.OnlyRndReadsTheRandomInput : Prop :=
  ∀ (i : Instr) (s t : State) (k : Nat), (∀ x kk, i ≠ .rnd x kk) →
    exec i s = .next t → exec i { s with draws := k } = .next { t with draws := k }

/-- 10_state.md R38 and R36: no tick reads `redraw`, so a host that never acknowledges changes nothing else in the core
(R190); and no tick reads the sound timer but to count it down. -/
def Obligations.NoTickReadsRedrawOrTheSoundTimer : Prop :=
  ∀ (s t : State), step s = .next t →
    (∀ b, ∃ t', step { s with redraw := b } = .next t' ∧ t' = { t with redraw := t'.redraw }) ∧
    ∀ b, ∃ t', step { s with st := b } = .next t' ∧ t' = { t with st := t'.st }
end

