-- ==== Sys2Proof/Laws/Decode.lean ====
section
/-! SUPPORT. The fields of an encoded word, format by format (30_encoding.md R71), and a word rebuilt from its fields. -/

namespace Sys2Proof

/-- The bits of a slice that lies in the low part of a concatenation. -/
theorem slice_append_low {n m : Nat} (a : BitVec n) (b : BitVec m) (start len : Nat) (h : start + len ≤ m) :
    (a ++ b).extractLsb' start len = b.extractLsb' start len := by
  ext i hi
  simp [BitVec.getElem_extractLsb', BitVec.getLsbD_append, show start + i < m by omega]

/-- The bits of a slice that lies in the high part of a concatenation. -/
theorem slice_append_high {n m : Nat} (a : BitVec n) (b : BitVec m) (start len : Nat) (h : m ≤ start) :
    (a ++ b).extractLsb' start len = a.extractLsb' (start - m) len := by
  ext i hi
  simp only [BitVec.getElem_extractLsb', BitVec.getLsbD_append]
  rw [if_neg (by omega)]
  congr 1
  omega

@[simp] theorem opField_encodeA (op : Nibble) (nnn : Addr12) : opField (encodeA op nnn) = op := by
  change BitVec.extractLsb' (n := 4 + 12) 12 4 (op ++ nnn) = op
  rw [slice_append_high _ _ _ _ (by decide)]
  exact BitVec.extractLsb'_eq_self

@[simp] theorem nnnField_encodeA (op : Nibble) (nnn : Addr12) : nnnField (encodeA op nnn) = nnn := by
  change BitVec.extractLsb' (n := 4 + 12) 0 12 (op ++ nnn) = nnn
  rw [slice_append_low _ _ _ _ (by decide)]
  exact BitVec.extractLsb'_eq_self

@[simp] theorem opField_encodeXK (op x : Nibble) (kk : Byte) : opField (encodeXK op x kk) = op := by
  change BitVec.extractLsb' (n := 4 + 4 + 8) 12 4 (op ++ x ++ kk) = op
  rw [slice_append_high _ _ _ _ (by decide),
    slice_append_high _ _ _ _ (by decide)]
  exact BitVec.extractLsb'_eq_self

@[simp] theorem xField_encodeXK (op x : Nibble) (kk : Byte) : xField (encodeXK op x kk) = x := by
  change BitVec.extractLsb' (n := 4 + 4 + 8) 8 4 (op ++ x ++ kk) = x
  rw [slice_append_high _ _ _ _ (by decide),
    slice_append_low _ _ _ _ (by decide)]
  exact BitVec.extractLsb'_eq_self

@[simp] theorem kkField_encodeXK (op x : Nibble) (kk : Byte) : kkField (encodeXK op x kk) = kk := by
  change BitVec.extractLsb' (n := 4 + 4 + 8) 0 8 (op ++ x ++ kk) = kk
  rw [slice_append_low _ _ _ _ (by decide)]
  exact BitVec.extractLsb'_eq_self

@[simp] theorem opField_encodeXY (op x y n : Nibble) : opField (encodeXY op x y n) = op := by
  change BitVec.extractLsb' (n := 4 + 4 + 4 + 4) 12 4 (op ++ x ++ y ++ n) = op
  rw [slice_append_high _ _ _ _ (by decide),
    slice_append_high _ _ _ _ (by decide),
    slice_append_high _ _ _ _ (by decide)]
  exact BitVec.extractLsb'_eq_self

@[simp] theorem xField_encodeXY (op x y n : Nibble) : xField (encodeXY op x y n) = x := by
  change BitVec.extractLsb' (n := 4 + 4 + 4 + 4) 8 4 (op ++ x ++ y ++ n) = x
  rw [slice_append_high _ _ _ _ (by decide),
    slice_append_high _ _ _ _ (by decide),
    slice_append_low _ _ _ _ (by decide)]
  exact BitVec.extractLsb'_eq_self

@[simp] theorem yField_encodeXY (op x y n : Nibble) : yField (encodeXY op x y n) = y := by
  change BitVec.extractLsb' (n := 4 + 4 + 4 + 4) 4 4 (op ++ x ++ y ++ n) = y
  rw [slice_append_high _ _ _ _ (by decide),
    slice_append_low _ _ _ _ (by decide)]
  exact BitVec.extractLsb'_eq_self

@[simp] theorem nField_encodeXY (op x y n : Nibble) : nField (encodeXY op x y n) = n := by
  change BitVec.extractLsb' (n := 4 + 4 + 4 + 4) 0 4 (op ++ x ++ y ++ n) = n
  rw [slice_append_low _ _ _ _ (by decide)]
  exact BitVec.extractLsb'_eq_self

@[simp] theorem opField_encodeXS (op x : Nibble) (sel : Byte) : opField (encodeXS op x sel) = op := by
  change BitVec.extractLsb' (n := 4 + 4 + 8) 12 4 (op ++ x ++ sel) = op
  rw [slice_append_high _ _ _ _ (by decide),
    slice_append_high _ _ _ _ (by decide)]
  exact BitVec.extractLsb'_eq_self

@[simp] theorem xField_encodeXS (op x : Nibble) (sel : Byte) : xField (encodeXS op x sel) = x := by
  change BitVec.extractLsb' (n := 4 + 4 + 8) 8 4 (op ++ x ++ sel) = x
  rw [slice_append_high _ _ _ _ (by decide),
    slice_append_low _ _ _ _ (by decide)]
  exact BitVec.extractLsb'_eq_self

@[simp] theorem kkField_encodeXS (op x : Nibble) (sel : Byte) : kkField (encodeXS op x sel) = sel := by
  change BitVec.extractLsb' (n := 4 + 4 + 8) 0 8 (op ++ x ++ sel) = sel
  rw [slice_append_low _ _ _ _ (by decide)]
  exact BitVec.extractLsb'_eq_self

@[simp] theorem opField_encodeZ (ii : Byte) (sel : Nibble) : opField (encodeZ ii sel) = 0x0#4 := by
  change BitVec.extractLsb' (n := 4 + 8 + 4) 12 4 (0x0#4 ++ ii ++ sel) = 0x0#4
  rw [slice_append_high _ _ _ _ (by decide),
    slice_append_high _ _ _ _ (by decide)]
  exact BitVec.extractLsb'_eq_self

@[simp] theorem iiField_encodeZ (ii : Byte) (sel : Nibble) : iiField (encodeZ ii sel) = ii := by
  change BitVec.extractLsb' (n := 4 + 8 + 4) 4 8 (0x0#4 ++ ii ++ sel) = ii
  rw [slice_append_high _ _ _ _ (by decide),
    slice_append_low _ _ _ _ (by decide)]
  exact BitVec.extractLsb'_eq_self

@[simp] theorem nField_encodeZ (ii : Byte) (sel : Nibble) : nField (encodeZ ii sel) = sel := by
  change BitVec.extractLsb' (n := 4 + 8 + 4) 0 4 (0x0#4 ++ ii ++ sel) = sel
  rw [slice_append_low _ _ _ _ (by decide)]
  exact BitVec.extractLsb'_eq_self

/-- A word is its format-`A` fields. -/
theorem encodeA_fields (w : Word) : encodeA (opField w) (nnnField w) = w :=
  BitVec.extractLsb'_append_extractLsb'_eq_extractLsb' (by decide) |>.trans BitVec.extractLsb'_eq_self

/-- The top two nibbles of a word. -/
theorem op_append_x (w : Word) : opField w ++ xField w = w.extractLsb' 8 8 :=
  BitVec.extractLsb'_append_extractLsb'_eq_extractLsb' (by decide)

/-- A word is its format-`XK` fields. -/
theorem encodeXK_fields (w : Word) : encodeXK (opField w) (xField w) (kkField w) = w := by
  change (opField w ++ xField w) ++ kkField w = w
  rw [op_append_x]
  exact (BitVec.extractLsb'_append_extractLsb'_eq_extractLsb' (by decide)).trans BitVec.extractLsb'_eq_self

/-- A word is its format-`XS` fields. -/
theorem encodeXS_fields (w : Word) : encodeXS (opField w) (xField w) (kkField w) = w := encodeXK_fields w

/-- A word is its format-`XY` fields. -/
theorem encodeXY_fields (w : Word) : encodeXY (opField w) (xField w) (yField w) (nField w) = w := by
  change ((opField w ++ xField w) ++ yField w) ++ nField w = w
  have h : (opField w ++ xField w) ++ yField w = w.extractLsb' 4 12 := by
    rw [op_append_x]
    exact BitVec.extractLsb'_append_extractLsb'_eq_extractLsb' (by decide)
  rw [h]
  exact (BitVec.extractLsb'_append_extractLsb'_eq_extractLsb' (by decide)).trans BitVec.extractLsb'_eq_self

/-- A word with `op` 0 is its format-`Z` fields. -/
theorem encodeZ_fields (w : Word) (h : opField w = 0x0#4) : encodeZ (iiField w) (nField w) = w := by
  change (0x0#4 ++ iiField w) ++ nField w = w
  have h' : (0x0#4 ++ iiField w) = w.extractLsb' 4 12 := by
    rw [← h]
    exact BitVec.extractLsb'_append_extractLsb'_eq_extractLsb' (by decide)
  rw [h']
  exact (BitVec.extractLsb'_append_extractLsb'_eq_extractLsb' (by decide)).trans BitVec.extractLsb'_eq_self

end Sys2Proof
end

