-- ==== Sys2Proof/Laws/Display.lean ====
section
/-! SUPPORT. The laws of the display (43_display.md R131, R133). -/

namespace Sys2Proof.Machine

/-- A pixel of a display after one inversion. -/
theorem pixel_toggle (d : Display) (row col row' col' : Nat) :
    (d.toggle row col).pixel row' col' =
      (d.pixel row' col' ^^ decide (row % 32 = row' % 32 ∧ col % 64 = col' % 64)) := by
  unfold Display.toggle Display.pixel
  simp only [Vector.getElem_set]
  by_cases hr : row % 32 = row' % 32
  · simp only [hr, if_true, Vector.getElem_set, true_and]
    by_cases hc : col % 64 = col' % 64 <;> simp [hc]
  · simp [hr]

/-- Two displays with the same pixels are the same display. -/
theorem display_ext {d e : Display} (h : ∀ row col, d.pixel row col = e.pixel row col) : d = e := by
  apply Vector.ext
  intro r hr
  apply Vector.ext
  intro c hc
  have := h r c
  simpa [Display.pixel, Nat.mod_eq_of_lt hr, Nat.mod_eq_of_lt hc] using this

/-- Every pixel of the cleared display is off (R130). -/
@[simp] theorem pixel_blankDisplay (row col : Nat) : blankDisplay.pixel row col = false := by
  simp [blankDisplay, Display.pixel]

/-- One sprite bit, as an inversion and a collision (R131). -/
theorem drawBit_disp_pixel (bit : Bool) (row col : Nat) (cv : Canvas) (row' col' : Nat) :
    (drawBit bit row col cv).disp.pixel row' col' =
      (cv.disp.pixel row' col' ^^ (bit && decide (row % 32 = row' % 32 ∧ col % 64 = col' % 64))) := by
  cases bit <;> simp [drawBit, pixel_toggle]

@[simp] theorem drawBit_hit (bit : Bool) (row col : Nat) (cv : Canvas) :
    (drawBit bit row col cv).hit = (cv.hit || bit && cv.disp.pixel row col) := by
  cases bit <;> simp [drawBit]

/-- Whether columns 0 to `count − 1` of a sprite row at display row `row` and column `vx` have a set bit on a pixel. -/
def RowCovers (b : Byte) (row vx count row' col' : Nat) : Prop :=
  row % 32 = row' % 32 ∧ ∃ c < count, spriteBit b c = true ∧ (vx + c) % 64 = col' % 64

/-- Whether sprite rows 0 to `count − 1` have a set bit on a pixel. -/
def RowsCover (m : Memory) (i vx vy count row' col' : Nat) : Prop :=
  ∃ r < count, RowCovers (m.read (i + r)) (vy + r) vx 8 row' col'

/-- One more column covers what the earlier ones did and what its own bit does. -/
theorem rowCovers_succ (b : Byte) (row vx count row' col' : Nat) :
    RowCovers b row vx (count + 1) row' col' ↔
      RowCovers b row vx count row' col' ∨
        (spriteBit b count = true ∧ row % 32 = row' % 32 ∧ (vx + count) % 64 = col' % 64) := by
  unfold RowCovers
  constructor
  · rintro ⟨h, c, hc, hb, hcol⟩
    by_cases hk : c = count
    · subst hk
      exact .inr ⟨hb, h, hcol⟩
    · exact .inl ⟨h, c, by omega, hb, hcol⟩
  · rintro (⟨h, c, hc, hb, hcol⟩ | ⟨hb, h, hcol⟩)
    · exact ⟨h, c, by omega, hb, hcol⟩
    · exact ⟨h, count, by omega, hb, hcol⟩

/-- One more row covers what the earlier ones did and what its own columns do. -/
theorem rowsCover_succ (m : Memory) (i vx vy count row' col' : Nat) :
    RowsCover m i vx vy (count + 1) row' col' ↔
      RowsCover m i vx vy count row' col' ∨ RowCovers (m.read (i + count)) (vy + count) vx 8 row' col' := by
  unfold RowsCover
  constructor
  · rintro ⟨r, hr, h⟩
    by_cases hk : r = count
    · subst hk
      exact .inr h
    · exact .inl ⟨r, by omega, h⟩
  · rintro (⟨r, hr, h⟩ | h)
    · exact ⟨r, by omega, h⟩
    · exact ⟨count, by omega, h⟩

/-- One sprite row inverts exactly the pixels it covers (43_display.md R131). -/
theorem drawColumns_pixel (b : Byte) (row vx count : Nat) (hc : count ≤ 8) (cv : Canvas) (row' col' : Nat) :
    (RowCovers b row vx count row' col' →
        (drawColumns b row vx count cv).disp.pixel row' col' = !cv.disp.pixel row' col') ∧
      (¬ RowCovers b row vx count row' col' →
        (drawColumns b row vx count cv).disp.pixel row' col' = cv.disp.pixel row' col') := by
  induction count with
  | zero => simp [RowCovers, drawColumns]
  | succ count ih =>
    obtain ⟨ih1, ih2⟩ := ih (by omega)
    have disjoint : RowCovers b row vx count row' col' → ¬ (vx + count) % 64 = col' % 64 := by
      rintro ⟨_, c, _, _, hcol⟩
      omega
    rw [rowCovers_succ, drawColumns, drawBit_disp_pixel]
    by_cases h1 : RowCovers b row vx count row' col'
    · simp [h1, ih1 h1, disjoint h1]
    · by_cases h2 : spriteBit b count = true ∧ row % 32 = row' % 32 ∧ (vx + count) % 64 = col' % 64
      · simp [h1, ih2 h1, h2]
      · have : (spriteBit b count && decide (row % 32 = row' % 32 ∧ (vx + count) % 64 = col' % 64)) = false := by
          simpa using h2
        rw [this]
        simp [h1, ih2 h1, h2]

/-- The rows of a sprite invert exactly the pixels they cover (R131). -/
theorem drawRows_pixel (m : Memory) (i vx vy count : Nat) (hn : count ≤ 32) (cv : Canvas) (row' col' : Nat) :
    (RowsCover m i vx vy count row' col' →
        (drawRows m i vx vy count cv).disp.pixel row' col' = !cv.disp.pixel row' col') ∧
      (¬ RowsCover m i vx vy count row' col' →
        (drawRows m i vx vy count cv).disp.pixel row' col' = cv.disp.pixel row' col') := by
  induction count with
  | zero => simp [RowsCover, drawRows]
  | succ count ih =>
    obtain ⟨ih1, ih2⟩ := ih (by omega)
    have disjoint : RowsCover m i vx vy count row' col' →
        ¬ RowCovers (m.read (i + count)) (vy + count) vx 8 row' col' := by
      rintro ⟨r, _, hrow, _⟩ ⟨hrow', _⟩
      omega
    obtain ⟨row1, row2⟩ :=
      drawColumns_pixel (m.read (i + count)) (vy + count) vx 8 (by omega) (drawRows m i vx vy count cv) row' col'
    rw [rowsCover_succ, drawRows]
    simp only [Config.spriteW]
    by_cases h1 : RowsCover m i vx vy count row' col'
    · simp [h1, row2 (disjoint h1), ih1 h1]
    · by_cases h2 : RowCovers (m.read (i + count)) (vy + count) vx 8 row' col'
      · simp [h1, h2, row1 h2, ih2 h1]
      · simp [h1, h2, row2 h2, ih2 h1]

/-- One sprite row collides exactly where a set bit meets a pixel that was on (R131). -/
theorem drawColumns_hit (b : Byte) (row vx count : Nat) (hc : count ≤ 8) (cv : Canvas) :
    (drawColumns b row vx count cv).hit = true ↔
      cv.hit = true ∨ ∃ c < count, spriteBit b c = true ∧ cv.disp.pixel row (vx + c) = true := by
  induction count with
  | zero => simp [drawColumns]
  | succ count ih =>
    have untouched : (drawColumns b row vx count cv).disp.pixel row (vx + count) = cv.disp.pixel row (vx + count) := by
      refine (drawColumns_pixel b row vx count (by omega) cv row (vx + count)).2 ?_
      rintro ⟨_, c, _, _, hcol⟩
      omega
    rw [drawColumns, drawBit_hit, Bool.or_eq_true, Bool.and_eq_true, ih (by omega), untouched]
    constructor
    · rintro ((h | ⟨c, h, h'⟩) | h)
      · exact .inl h
      · exact .inr ⟨c, by omega, h'⟩
      · exact .inr ⟨count, by omega, h⟩
    · rintro (h | ⟨c, h, h'⟩)
      · exact .inl (.inl h)
      · by_cases hk : c = count
        · subst hk
          exact .inr h'
        · exact .inl (.inr ⟨c, by omega, h'⟩)

/-- The rows of a sprite collide exactly where a set bit meets a pixel that was on (R131). -/
theorem drawRows_hit (m : Memory) (i vx vy count : Nat) (hn : count ≤ 32) (cv : Canvas) :
    (drawRows m i vx vy count cv).hit = true ↔
      cv.hit = true ∨ ∃ r < count, ∃ c < 8,
        spriteBit (m.read (i + r)) c = true ∧ cv.disp.pixel (vy + r) (vx + c) = true := by
  induction count with
  | zero => simp [drawRows]
  | succ count ih =>
    have untouched : ∀ c,
        (drawRows m i vx vy count cv).disp.pixel (vy + count) (vx + c) = cv.disp.pixel (vy + count) (vx + c) := by
      intro c
      refine (drawRows_pixel m i vx vy count (by omega) cv _ _).2 ?_
      rintro ⟨r, _, hrow, _⟩
      omega
    rw [drawRows, drawColumns_hit _ _ _ _ (by decide), ih (by omega)]
    simp only [untouched, Config.spriteW]
    constructor
    · rintro ((h | ⟨r, h, h'⟩) | h)
      · exact .inl h
      · exact .inr ⟨r, by omega, h'⟩
      · exact .inr ⟨count, by omega, h⟩
    · rintro (h | ⟨r, h, h'⟩)
      · exact .inl (.inl h)
      · by_cases hk : r = count
        · subst hk
          exact .inr h'
        · exact .inl (.inr ⟨r, by omega, h'⟩)

end Sys2Proof.Machine
end

