-- ==== Sys2Proof/Laws/Memory.lean ====
section
/-! SUPPORT. The laws of memory (20_memory.md R50, R51): a read after a write, and the canonical form kept by every
operation. -/

namespace Sys2Proof.Machine

theorem lookup_insert_same (a : Nat) (b : Byte) (m : Memory) (h : ∀ c ∈ m, c.1 ≠ a) :
    (Memory.insert a b m).lookup a = b := by
  induction m with
  | nil => simp [Memory.insert, Memory.lookup]
  | cons c rest ih =>
    have hc := h c (by simp)
    have hr := ih fun d hd => h d (by simp [hd])
    unfold Memory.insert
    split <;> simp [Memory.lookup, hc, hr]

theorem lookup_insert_other (a a' : Nat) (b : Byte) (m : Memory) (h : a ≠ a') :
    (Memory.insert a b m).lookup a' = m.lookup a' := by
  induction m with
  | nil => simp [Memory.insert, Memory.lookup, h]
  | cons c rest ih =>
    unfold Memory.insert
    split <;> simp [Memory.lookup, h, ih]

theorem lookup_erase_same (a : Nat) (m : Memory) :
    Memory.lookup a (m.filter fun c => c.1 != a) = resetByte a := by
  induction m with
  | nil => rfl
  | cons c rest ih =>
    rw [List.filter_cons]
    by_cases hc : c.1 = a
    · rw [if_neg (by simp [hc]), ih]
    · rw [if_pos (by simp [hc]), Memory.lookup, if_neg hc, ih]

theorem lookup_erase_other (a a' : Nat) (m : Memory) (h : a ≠ a') :
    Memory.lookup a' (m.filter fun c => c.1 != a) = m.lookup a' := by
  induction m with
  | nil => rfl
  | cons c rest ih =>
    rw [List.filter_cons, Memory.lookup]
    by_cases hc : c.1 = a
    · rw [if_neg (by simp [hc]), ih, if_neg (by omega)]
    · rw [if_pos (by simp [hc]), Memory.lookup, ih]

/-- `MemRead` after `MemWrite` (R50, R51), in every memory, canonical or not. -/
theorem read_write (m : Memory) (addr addr' : Nat) (b : Byte) :
    (m.write addr b).read addr' = if addr % 4096 = addr' % 4096 then b else m.read addr' := by
  unfold Memory.write Memory.read
  simp only [Config.memSize]
  by_cases h : addr % 4096 = addr' % 4096
  · rw [if_pos h, ← h]
    split
    · rename_i hb
      rw [lookup_erase_same, hb]
    · exact lookup_insert_same _ _ _ (by simp)
  · rw [if_neg h]
    split
    · exact lookup_erase_other _ _ _ h
    · rw [lookup_insert_other _ _ _ _ h, lookup_erase_other _ _ _ h]

theorem mem_insert {a : Nat} {b : Byte} {m : Memory} {c : Host.Cell} :
    c ∈ Memory.insert a b m ↔ c = (a, b) ∨ c ∈ m := by
  induction m with
  | nil => simp [Memory.insert]
  | cons d rest ih =>
    unfold Memory.insert
    split
    · simp
    · simp [ih]
      tauto

theorem insert_sorted {a : Nat} {b : Byte} {m : Memory} (hm : m.Pairwise fun c d => c.1 < d.1)
    (ha : ∀ c ∈ m, c.1 ≠ a) : (Memory.insert a b m).Pairwise fun c d => c.1 < d.1 := by
  induction m with
  | nil => simp [Memory.insert]
  | cons c rest ih =>
    obtain ⟨hc, hr⟩ := List.pairwise_cons.mp hm
    have hca := ha c (by simp)
    unfold Memory.insert
    split
    · refine List.pairwise_cons.mpr ⟨fun d hd => ?_, hm⟩
      rcases List.mem_cons.mp hd with rfl | hd
      · assumption
      · have := hc d hd
        simp only
        omega
    · refine List.pairwise_cons.mpr ⟨fun d hd => ?_, ih hr fun d hd => ha d (by simp [hd])⟩
      rcases mem_insert.mp hd with rfl | hd
      · simp only
        omega
      · exact hc d hd

/-- A write keeps the canonical form. -/
theorem write_wf {m : Memory} (hm : m.wf) (addr : Nat) (b : Byte) : (m.write addr b).wf := by
  have hf : Memory.wf (m.filter fun c => c.1 != addr % 4096) :=
    ⟨hm.1.filter _, fun c hc => hm.2 c (List.mem_filter.mp hc).1⟩
  unfold Memory.write
  simp only [Config.memSize]
  split
  · exact hf
  · rename_i hb
    refine ⟨insert_sorted hf.1 (by simp), fun c hc => ?_⟩
    rcases mem_insert.mp hc with rfl | hc
    · exact ⟨Nat.mod_lt _ (by decide), hb⟩
    · exact hf.2 c hc

/-- A sequence of writes keeps the canonical form. -/
theorem writeBytes_wf {m : Memory} (hm : m.wf) (addr : Nat) (bytes : List Byte) : (m.writeBytes addr bytes).wf := by
  induction bytes generalizing m addr with
  | nil => exact hm
  | cons b rest ih => exact ih (write_wf hm addr b) (addr + 1)

/-- The BCD store keeps the canonical form. -/
theorem storeBcd_wf {m : Memory} (hm : m.wf) (i : Nat) (b : Byte) : (storeBcd m i b).wf :=
  write_wf (write_wf (write_wf hm _ _) _ _) _ _

/-- The register dump keeps the canonical form. -/
theorem dumpRegs_wf {m : Memory} (hm : m.wf) (v : Vector Byte 16) (i count : Nat) : (dumpRegs v i count m).wf := by
  induction count with
  | zero => exact hm
  | succ count ih => exact write_wf ih _ _

/-- Placing a word where the next tick fetches keeps the canonical form. -/
theorem placeWord_wf {s : State} (hs : s.mem.wf) (w : Word) : (placeWord w s).mem.wf :=
  write_wf (write_wf hs _ _) _ _

/-- Memory after reset is in canonical form. -/
theorem reset_wf : State.reset.mem.wf := by decide

/-- The BCD store, byte by byte. -/
theorem read_storeBcd (m : Memory) (i a : Nat) (b : Byte) :
    (storeBcd m i b).read a =
      if (i + 2) % 4096 = a % 4096 then BitVec.ofNat 8 (b.toNat % 10)
      else if (i + 1) % 4096 = a % 4096 then BitVec.ofNat 8 (b.toNat / 10 % 10)
      else if i % 4096 = a % 4096 then BitVec.ofNat 8 (b.toNat / 100)
      else m.read a := by
  simp only [storeBcd, read_write]

/-- The register dump leaves every byte outside it alone. -/
theorem read_dumpRegs_outside (m : Memory) (v : Vector Byte 16) (i count a : Nat)
    (h : ∀ k, k < count → (i + k) % 4096 ≠ a % 4096) : (dumpRegs v i count m).read a = m.read a := by
  induction count with
  | zero => rfl
  | succ count ih =>
    rw [dumpRegs, read_write, if_neg (h count (by omega)), ih fun k hk => h k (by omega)]

/-- The register dump puts each register in its byte. -/
theorem read_dumpRegs_inside (m : Memory) (v : Vector Byte 16) (i count k : Nat) (hk : k < count) (hc : count ≤ 16) :
    (dumpRegs v i count m).read (i + k) = v[k] := by
  induction count with
  | zero => omega
  | succ count ih =>
    rw [dumpRegs, read_write]
    by_cases h : k = count
    · subst h
      rw [if_pos rfl]
      simp [show k < 16 by omega]
    · rw [if_neg (by omega), ih (by omega) (by omega)]

/-- A sequence of writes shorter than memory, byte by byte. -/
theorem read_writeBytes_inside (m : Memory) (addr k : Nat) (bytes : List Byte) (hl : bytes.length ≤ 4096)
    (hk : k < bytes.length) : (m.writeBytes addr bytes).read (addr + k) = bytes[k] := by
  induction bytes generalizing m addr k with
  | nil => simp at hk
  | cons b rest ih =>
    have outside : ∀ (bs : List Byte) (m : Memory) (addr a : Nat),
        (∀ j, j < bs.length → (addr + j) % 4096 ≠ a % 4096) → (m.writeBytes addr bs).read a = m.read a := by
      intro bs
      induction bs with
      | nil => intros; rfl
      | cons c cs ihc =>
        intro m addr a h
        rw [Memory.writeBytes, ihc _ _ _ fun j hj => ?_, read_write, if_neg (by simpa using h 0 (by simp))]
        have := h (j + 1) (by simpa using hj)
        rwa [show addr + 1 + j = addr + (j + 1) by omega]
    simp only [List.length_cons] at hl hk
    rw [Memory.writeBytes]
    cases k with
    | zero =>
      rw [outside _ _ _ _ fun j hj => by omega, read_write, if_pos (by simp)]
      rfl
    | succ k =>
      rw [show addr + (k + 1) = addr + 1 + k by omega, ih _ _ _ (by omega) (by omega)]
      rfl

end Sys2Proof.Machine
end

