-- ==== Sys2Proof/Laws/State.lean ====
section
/-! SUPPORT. What each named update of the state leaves in each field, so that no proof unfolds a record update. -/

namespace Sys2Proof.Machine

variable (s : State)

/-! `advance` -/

@[simp] theorem advance_mem : (advance s).mem = s.mem := rfl
@[simp] theorem advance_v : (advance s).v = s.v := rfl
@[simp] theorem advance_I : (advance s).I = s.I := rfl
@[simp] theorem advance_pc : (advance s).pc = s.pc + 2#16 := rfl
@[simp] theorem advance_stack : (advance s).stack = s.stack := rfl
@[simp] theorem advance_dt : (advance s).dt = s.dt := rfl
@[simp] theorem advance_st : (advance s).st = s.st := rfl
@[simp] theorem advance_disp : (advance s).disp = s.disp := rfl
@[simp] theorem advance_redraw : (advance s).redraw = s.redraw := rfl
@[simp] theorem advance_key : (advance s).key = s.key := rfl
@[simp] theorem advance_lastKey : (advance s).lastKey = s.lastKey := rfl
@[simp] theorem advance_waiting : (advance s).waiting = s.waiting := rfl
@[simp] theorem advance_kp : (advance s).kp = s.kp := rfl
@[simp] theorem advance_wx : (advance s).wx = s.wx := rfl
@[simp] theorem advance_fault : (advance s).fault = s.fault := rfl
@[simp] theorem advance_draws : (advance s).draws = s.draws := rfl

/-! `skipIf` -/

@[simp] theorem skipIf_mem (c : Bool) : (skipIf c s).mem = s.mem := rfl
@[simp] theorem skipIf_v (c : Bool) : (skipIf c s).v = s.v := rfl
@[simp] theorem skipIf_I (c : Bool) : (skipIf c s).I = s.I := rfl
@[simp] theorem skipIf_pc (c : Bool) : (skipIf c s).pc = s.pc + if c then 4#16 else 2#16 := rfl
@[simp] theorem skipIf_stack (c : Bool) : (skipIf c s).stack = s.stack := rfl
@[simp] theorem skipIf_dt (c : Bool) : (skipIf c s).dt = s.dt := rfl
@[simp] theorem skipIf_st (c : Bool) : (skipIf c s).st = s.st := rfl
@[simp] theorem skipIf_disp (c : Bool) : (skipIf c s).disp = s.disp := rfl
@[simp] theorem skipIf_redraw (c : Bool) : (skipIf c s).redraw = s.redraw := rfl
@[simp] theorem skipIf_key (c : Bool) : (skipIf c s).key = s.key := rfl
@[simp] theorem skipIf_lastKey (c : Bool) : (skipIf c s).lastKey = s.lastKey := rfl
@[simp] theorem skipIf_waiting (c : Bool) : (skipIf c s).waiting = s.waiting := rfl
@[simp] theorem skipIf_kp (c : Bool) : (skipIf c s).kp = s.kp := rfl
@[simp] theorem skipIf_wx (c : Bool) : (skipIf c s).wx = s.wx := rfl
@[simp] theorem skipIf_fault (c : Bool) : (skipIf c s).fault = s.fault := rfl
@[simp] theorem skipIf_draws (c : Bool) : (skipIf c s).draws = s.draws := rfl

/-! `jumpTo` -/

@[simp] theorem jumpTo_mem (w : Word) : (jumpTo w s).mem = s.mem := rfl
@[simp] theorem jumpTo_v (w : Word) : (jumpTo w s).v = s.v := rfl
@[simp] theorem jumpTo_I (w : Word) : (jumpTo w s).I = s.I := rfl
@[simp] theorem jumpTo_pc (w : Word) : (jumpTo w s).pc = w := rfl
@[simp] theorem jumpTo_stack (w : Word) : (jumpTo w s).stack = s.stack := rfl
@[simp] theorem jumpTo_dt (w : Word) : (jumpTo w s).dt = s.dt := rfl
@[simp] theorem jumpTo_st (w : Word) : (jumpTo w s).st = s.st := rfl
@[simp] theorem jumpTo_disp (w : Word) : (jumpTo w s).disp = s.disp := rfl
@[simp] theorem jumpTo_redraw (w : Word) : (jumpTo w s).redraw = s.redraw := rfl
@[simp] theorem jumpTo_key (w : Word) : (jumpTo w s).key = s.key := rfl
@[simp] theorem jumpTo_lastKey (w : Word) : (jumpTo w s).lastKey = s.lastKey := rfl
@[simp] theorem jumpTo_waiting (w : Word) : (jumpTo w s).waiting = s.waiting := rfl
@[simp] theorem jumpTo_kp (w : Word) : (jumpTo w s).kp = s.kp := rfl
@[simp] theorem jumpTo_wx (w : Word) : (jumpTo w s).wx = s.wx := rfl
@[simp] theorem jumpTo_fault (w : Word) : (jumpTo w s).fault = s.fault := rfl
@[simp] theorem jumpTo_draws (w : Word) : (jumpTo w s).draws = s.draws := rfl

/-! `writeReg` -/

@[simp] theorem writeReg_mem (r : Nibble) (b : Byte) : (writeReg r b s).mem = s.mem := rfl
@[simp] theorem writeReg_v (r : Nibble) (b : Byte) : (writeReg r b s).v = s.v.set r.toNat b := rfl
@[simp] theorem writeReg_I (r : Nibble) (b : Byte) : (writeReg r b s).I = s.I := rfl
@[simp] theorem writeReg_pc (r : Nibble) (b : Byte) : (writeReg r b s).pc = s.pc := rfl
@[simp] theorem writeReg_stack (r : Nibble) (b : Byte) : (writeReg r b s).stack = s.stack := rfl
@[simp] theorem writeReg_dt (r : Nibble) (b : Byte) : (writeReg r b s).dt = s.dt := rfl
@[simp] theorem writeReg_st (r : Nibble) (b : Byte) : (writeReg r b s).st = s.st := rfl
@[simp] theorem writeReg_disp (r : Nibble) (b : Byte) : (writeReg r b s).disp = s.disp := rfl
@[simp] theorem writeReg_redraw (r : Nibble) (b : Byte) : (writeReg r b s).redraw = s.redraw := rfl
@[simp] theorem writeReg_key (r : Nibble) (b : Byte) : (writeReg r b s).key = s.key := rfl
@[simp] theorem writeReg_lastKey (r : Nibble) (b : Byte) : (writeReg r b s).lastKey = s.lastKey := rfl
@[simp] theorem writeReg_waiting (r : Nibble) (b : Byte) : (writeReg r b s).waiting = s.waiting := rfl
@[simp] theorem writeReg_kp (r : Nibble) (b : Byte) : (writeReg r b s).kp = s.kp := rfl
@[simp] theorem writeReg_wx (r : Nibble) (b : Byte) : (writeReg r b s).wx = s.wx := rfl
@[simp] theorem writeReg_fault (r : Nibble) (b : Byte) : (writeReg r b s).fault = s.fault := rfl
@[simp] theorem writeReg_draws (r : Nibble) (b : Byte) : (writeReg r b s).draws = s.draws := rfl

/-! `raise` -/

@[simp] theorem raise_mem (c : FaultCause) (w : Word) : (raise c w s).mem = s.mem := rfl
@[simp] theorem raise_v (c : FaultCause) (w : Word) : (raise c w s).v = s.v := rfl
@[simp] theorem raise_I (c : FaultCause) (w : Word) : (raise c w s).I = s.I := rfl
@[simp] theorem raise_pc (c : FaultCause) (w : Word) : (raise c w s).pc = s.pc := rfl
@[simp] theorem raise_stack (c : FaultCause) (w : Word) : (raise c w s).stack = s.stack := rfl
@[simp] theorem raise_dt (c : FaultCause) (w : Word) : (raise c w s).dt = s.dt := rfl
@[simp] theorem raise_st (c : FaultCause) (w : Word) : (raise c w s).st = s.st := rfl
@[simp] theorem raise_disp (c : FaultCause) (w : Word) : (raise c w s).disp = s.disp := rfl
@[simp] theorem raise_redraw (c : FaultCause) (w : Word) : (raise c w s).redraw = s.redraw := rfl
@[simp] theorem raise_key (c : FaultCause) (w : Word) : (raise c w s).key = s.key := rfl
@[simp] theorem raise_lastKey (c : FaultCause) (w : Word) : (raise c w s).lastKey = s.lastKey := rfl
@[simp] theorem raise_waiting (c : FaultCause) (w : Word) : (raise c w s).waiting = s.waiting := rfl
@[simp] theorem raise_kp (c : FaultCause) (w : Word) : (raise c w s).kp = s.kp := rfl
@[simp] theorem raise_wx (c : FaultCause) (w : Word) : (raise c w s).wx = s.wx := rfl
@[simp] theorem raise_fault (c : FaultCause) (w : Word) : (raise c w s).fault = some { cause := c, pc := s.pc, opcode := w } := rfl
@[simp] theorem raise_draws (c : FaultCause) (w : Word) : (raise c w s).draws = s.draws := rfl

/-! `push` -/

@[simp] theorem push_mem (w : Word) : (push w s).mem = s.mem := rfl
@[simp] theorem push_v (w : Word) : (push w s).v = s.v := rfl
@[simp] theorem push_I (w : Word) : (push w s).I = s.I := rfl
@[simp] theorem push_pc (w : Word) : (push w s).pc = s.pc := rfl
@[simp] theorem push_stack (w : Word) : (push w s).stack = s.stack ++ [w] := rfl
@[simp] theorem push_dt (w : Word) : (push w s).dt = s.dt := rfl
@[simp] theorem push_st (w : Word) : (push w s).st = s.st := rfl
@[simp] theorem push_disp (w : Word) : (push w s).disp = s.disp := rfl
@[simp] theorem push_redraw (w : Word) : (push w s).redraw = s.redraw := rfl
@[simp] theorem push_key (w : Word) : (push w s).key = s.key := rfl
@[simp] theorem push_lastKey (w : Word) : (push w s).lastKey = s.lastKey := rfl
@[simp] theorem push_waiting (w : Word) : (push w s).waiting = s.waiting := rfl
@[simp] theorem push_kp (w : Word) : (push w s).kp = s.kp := rfl
@[simp] theorem push_wx (w : Word) : (push w s).wx = s.wx := rfl
@[simp] theorem push_fault (w : Word) : (push w s).fault = s.fault := rfl
@[simp] theorem push_draws (w : Word) : (push w s).draws = s.draws := rfl

/-! `countDraw` -/

@[simp] theorem countDraw_mem : (countDraw s).mem = s.mem := rfl
@[simp] theorem countDraw_v : (countDraw s).v = s.v := rfl
@[simp] theorem countDraw_I : (countDraw s).I = s.I := rfl
@[simp] theorem countDraw_pc : (countDraw s).pc = s.pc := rfl
@[simp] theorem countDraw_stack : (countDraw s).stack = s.stack := rfl
@[simp] theorem countDraw_dt : (countDraw s).dt = s.dt := rfl
@[simp] theorem countDraw_st : (countDraw s).st = s.st := rfl
@[simp] theorem countDraw_disp : (countDraw s).disp = s.disp := rfl
@[simp] theorem countDraw_redraw : (countDraw s).redraw = s.redraw := rfl
@[simp] theorem countDraw_key : (countDraw s).key = s.key := rfl
@[simp] theorem countDraw_lastKey : (countDraw s).lastKey = s.lastKey := rfl
@[simp] theorem countDraw_waiting : (countDraw s).waiting = s.waiting := rfl
@[simp] theorem countDraw_kp : (countDraw s).kp = s.kp := rfl
@[simp] theorem countDraw_wx : (countDraw s).wx = s.wx := rfl
@[simp] theorem countDraw_fault : (countDraw s).fault = s.fault := rfl
@[simp] theorem countDraw_draws : (countDraw s).draws = s.draws + 1 := rfl

/-! `timerTick` -/

@[simp] theorem timerTick_mem : (timerTick s).mem = s.mem := rfl
@[simp] theorem timerTick_v : (timerTick s).v = s.v := rfl
@[simp] theorem timerTick_I : (timerTick s).I = s.I := rfl
@[simp] theorem timerTick_pc : (timerTick s).pc = s.pc := rfl
@[simp] theorem timerTick_stack : (timerTick s).stack = s.stack := rfl
@[simp] theorem timerTick_dt : (timerTick s).dt = countDown s.dt := rfl
@[simp] theorem timerTick_st : (timerTick s).st = countDown s.st := rfl
@[simp] theorem timerTick_disp : (timerTick s).disp = s.disp := rfl
@[simp] theorem timerTick_redraw : (timerTick s).redraw = s.redraw := rfl
@[simp] theorem timerTick_key : (timerTick s).key = s.key := rfl
@[simp] theorem timerTick_lastKey : (timerTick s).lastKey = s.lastKey := rfl
@[simp] theorem timerTick_waiting : (timerTick s).waiting = s.waiting := rfl
@[simp] theorem timerTick_kp : (timerTick s).kp = s.kp := rfl
@[simp] theorem timerTick_wx : (timerTick s).wx = s.wx := rfl
@[simp] theorem timerTick_fault : (timerTick s).fault = s.fault := rfl
@[simp] theorem timerTick_draws : (timerTick s).draws = s.draws := rfl

/-! `enterKeyWait` -/

@[simp] theorem enterKeyWait_mem (x : Nibble) : (enterKeyWait x s).mem = s.mem := rfl
@[simp] theorem enterKeyWait_v (x : Nibble) : (enterKeyWait x s).v = s.v := rfl
@[simp] theorem enterKeyWait_I (x : Nibble) : (enterKeyWait x s).I = s.I := rfl
@[simp] theorem enterKeyWait_pc (x : Nibble) : (enterKeyWait x s).pc = s.pc := rfl
@[simp] theorem enterKeyWait_stack (x : Nibble) : (enterKeyWait x s).stack = s.stack := rfl
@[simp] theorem enterKeyWait_dt (x : Nibble) : (enterKeyWait x s).dt = s.dt := rfl
@[simp] theorem enterKeyWait_st (x : Nibble) : (enterKeyWait x s).st = s.st := rfl
@[simp] theorem enterKeyWait_disp (x : Nibble) : (enterKeyWait x s).disp = s.disp := rfl
@[simp] theorem enterKeyWait_redraw (x : Nibble) : (enterKeyWait x s).redraw = s.redraw := rfl
@[simp] theorem enterKeyWait_key (x : Nibble) : (enterKeyWait x s).key = s.key := rfl
@[simp] theorem enterKeyWait_lastKey (x : Nibble) : (enterKeyWait x s).lastKey = s.lastKey := rfl
@[simp] theorem enterKeyWait_waiting (x : Nibble) : (enterKeyWait x s).waiting = true := rfl
@[simp] theorem enterKeyWait_kp (x : Nibble) : (enterKeyWait x s).kp = false := rfl
@[simp] theorem enterKeyWait_wx (x : Nibble) : (enterKeyWait x s).wx = x := rfl
@[simp] theorem enterKeyWait_fault (x : Nibble) : (enterKeyWait x s).fault = s.fault := rfl
@[simp] theorem enterKeyWait_draws (x : Nibble) : (enterKeyWait x s).draws = s.draws := rfl

end Sys2Proof.Machine
end

