-- ==== Sys2Proof/Laws/Registers.lean ====
section
/-! SUPPORT. What the register operations do, each said once. -/

namespace Sys2Proof.Machine

/-- A register read after a register write (10_state.md R22). -/
theorem readReg_writeReg (s : State) (r x : Nibble) (b : Byte) :
    readReg (writeReg x b s) r = if x = r then b else readReg s r := by
  simp only [readReg, writeReg, Vector.getElem_set, BitVec.toNat_inj]

@[simp] theorem readReg_advance (s : State) (r : Nibble) : readReg (advance s) r = readReg s r := rfl

/-- The result and the flag, in the order of 10_state.md R27. -/
theorem readReg_writeResultAndFlag (s : State) (x r : Nibble) (result flag : Byte) :
    readReg (writeResultAndFlag x result flag s) r =
      if r = vf then flag else if r = x then result else readReg s r := by
  simp only [writeResultAndFlag, readReg_advance, readReg_writeReg, eq_comm (a := r)]

/-- A flag is 0 or 1 (R26). -/
theorem flagByte_cases (b : Bool) : flagByte b = 0#8 ∨ flagByte b = 1#8 := by cases b <;> decide

/-- `fillRegs` register by register (42_memory_index.md R125). -/
theorem getElem_fillRegs (m : Memory) (i count : Nat) (v : Vector Byte 16) (k : Nat) (hk : k < 16) :
    (fillRegs m i count v)[k] = if k < count then m.read (i + k) else v[k] := by
  induction count with
  | zero => simp [fillRegs]
  | succ count ih =>
    rw [fillRegs, Vector.getElem_setIfInBounds, ih]
    by_cases h : count = k
    · simp [h]
    · simp only [h, if_false]
      by_cases h' : k < count <;> simp [h'] <;> omega

end Sys2Proof.Machine
end

