-- ==== Sys2Proof/Laws/Ops.lean ====
section
/-! SUPPORT. What each shared operation with more than one case can do, said once. -/

namespace Sys2Proof.Machine

/-- CALL raises on a full stack and otherwise pushes and jumps (40_flow_control.md R92). -/
theorem callTo_cases (target opcode : Word) (s : State) :
    (16 ≤ s.stack.length ∧ callTo target opcode s = raise .stackOverflow opcode s) ∨
      (s.stack.length < 16 ∧ callTo target opcode s = jumpTo target (push s.pc s)) := by
  unfold callTo
  split
  · exact .inl ⟨‹_›, rfl⟩
  · exact .inr ⟨Nat.lt_of_not_le ‹_›, rfl⟩

/-- RET raises on an empty stack and otherwise pops (R90). -/
theorem returnFromCall_cases (opcode : Word) (s : State) :
    (s.stack = [] ∧ returnFromCall opcode s = raise .stackUnderflow opcode s) ∨
      ∃ rest t, s.stack = rest ++ [t] ∧ returnFromCall opcode s = jumpTo (t + 2#16) { s with stack := rest } := by
  rcases List.eq_nil_or_concat s.stack with h | ⟨rest, t, h⟩
  · exact .inl ⟨h, by simp [returnFromCall, h]⟩
  · exact .inr ⟨rest, t, by simpa using h, by simp [returnFromCall, h]⟩

/-- A key skip raises above 15 and otherwise skips on the key's state (45_keys.md R145, R146, R149). -/
theorem skipIfKey_cases (want : Bool) (x : Nibble) (opcode : Word) (s : State) :
    (15 < (readReg s x).toNat ∧
        skipIfKey want x opcode s = raise (.keyIndexOutOfRange (readReg s x)) opcode s) ∨
      ((readReg s x).toNat ≤ 15 ∧
        skipIfKey want x opcode s = skipIf (keyPressed s (readReg s x) == want) s) := by
  unfold skipIfKey
  split
  · exact .inl ⟨‹_›, rfl⟩
  · exact .inr ⟨Nat.le_of_not_lt ‹_›, rfl⟩

/-- The poll commits or does nothing (R148). -/
theorem keyWaitPoll_cases (s : State) :
    (s.kp = false ∧ keyWaitPoll s = s) ∨
      (s.kp = true ∧ keyWaitPoll s =
        { s with
          v := s.v.set s.wx.toNat (s.lastKey.setWidth 8)
          pc := s.pc + 2#16
          waiting := false
          kp := false }) := by
  unfold keyWaitPoll
  cases s.kp
  · exact .inl ⟨rfl, rfl⟩
  · exact .inr ⟨rfl, rfl⟩

/-- A timer goes one toward 0 and stays there (47_cycle_step.md R166). -/
theorem countDown_toNat (t : Byte) : (countDown t).toNat = t.toNat - 1 := by
  have ht : t.toNat < 256 := t.isLt
  unfold countDown
  split
  · simp only [BitVec.toNat_sub, BitVec.toNat_ofNat]
    omega
  · omega

end Sys2Proof.Machine
end

