-- ==== Sys2Proof/Laws/PerInstr.lean ====
section
/-! SUPPORT. Per instruction: the encoded word, masked as the instruction's row of 30_encoding.md R81 says, is that row's
value. -/

namespace Sys2Proof.Laws

/-- A conjunction of concatenations, part by part. -/
theorem and_append {n m : Nat} (a c : BitVec n) (b d : BitVec m) : (a ++ b) &&& (c ++ d) = (a &&& c) ++ (b &&& d) := by
  ext i hi
  simp [BitVec.getElem_append]

theorem selects_mask_F00F_Z (ii : Byte) (sel : Nibble) : encodeZ ii sel &&& 0xF00F#16 = encodeZ 0x00#8 sel := by
  change ((0x0#4 ++ ii) ++ sel) &&& ((0xF#4 ++ 0x00#8) ++ 0xF#4) = (0x0#4 ++ 0x00#8) ++ sel
  rw [and_append, and_append, BitVec.and_zero]
  congr 1
  exact BitVec.and_allOnes

theorem selects_mask_F000_A (op : Nibble) (nnn : Addr12) : encodeA op nnn &&& 0xF000#16 = encodeA op 0x000#12 := by
  change (op ++ nnn) &&& (0xF#4 ++ 0x000#12) = op ++ 0x000#12
  rw [and_append, BitVec.and_zero]
  congr 1
  exact BitVec.and_allOnes

theorem selects_mask_F000_XK (op x : Nibble) (kk : Byte) :
    encodeXK op x kk &&& 0xF000#16 = encodeXK op 0x0#4 0x00#8 := by
  change ((op ++ x) ++ kk) &&& ((0xF#4 ++ 0x0#4) ++ 0x00#8) = (op ++ 0x0#4) ++ 0x00#8
  rw [and_append, and_append, BitVec.and_zero, BitVec.and_zero]
  congr 2
  exact BitVec.and_allOnes

theorem selects_mask_F00F_XY (op x y sel : Nibble) :
    encodeXY op x y sel &&& 0xF00F#16 = encodeXY op 0x0#4 0x0#4 sel := by
  change (((op ++ x) ++ y) ++ sel) &&& (((0xF#4 ++ 0x0#4) ++ 0x0#4) ++ 0xF#4) = ((op ++ 0x0#4) ++ 0x0#4) ++ sel
  rw [and_append, and_append, and_append, BitVec.and_zero, BitVec.and_zero]
  congr
  · exact BitVec.and_allOnes
  · exact BitVec.and_allOnes

theorem selects_mask_F000_XY (op x y n : Nibble) :
    encodeXY op x y n &&& 0xF000#16 = encodeXY op 0x0#4 0x0#4 0x0#4 := by
  change (((op ++ x) ++ y) ++ n) &&& (((0xF#4 ++ 0x0#4) ++ 0x0#4) ++ 0x0#4) = ((op ++ 0x0#4) ++ 0x0#4) ++ 0x0#4
  rw [and_append, and_append, and_append, BitVec.and_zero, BitVec.and_zero, BitVec.and_zero]
  congr
  exact BitVec.and_allOnes

theorem selects_mask_F0FF_XS (op x : Nibble) (sel : Byte) :
    encodeXS op x sel &&& 0xF0FF#16 = encodeXS op 0x0#4 sel := by
  change ((op ++ x) ++ sel) &&& ((0xF#4 ++ 0x0#4) ++ 0xFF#8) = (op ++ 0x0#4) ++ sel
  rw [and_append, and_append, BitVec.and_zero]
  congr
  · exact BitVec.and_allOnes
  · exact BitVec.and_allOnes

/-- The instruction's row of the default opcode map holds its encoded word. -/
def MatchesRow.Statement (i : Instr) : Prop :=
  ∃ row ∈ opcodeTable false, row.mnemonic = i.mnemonic ∧ encode i &&& row.mask = row.value

theorem MatchesRow.cls (ii : Byte) : MatchesRow.Statement (.cls ii) :=
  ⟨⟨"CLS", 0x0000#16, 0xF00F#16⟩, by simp [opcodeTable, opcodeRowsZero, opcodeRowsLow, opcodeRows8,
    opcodeRowsHigh, opcodeRowsF], rfl, selects_mask_F00F_Z _ _⟩

theorem MatchesRow.ret (ii : Byte) : MatchesRow.Statement (.ret ii) :=
  ⟨⟨"RET", 0x000E#16, 0xF00F#16⟩, by simp [opcodeTable, opcodeRowsZero, opcodeRowsLow, opcodeRows8,
    opcodeRowsHigh, opcodeRowsF], rfl, selects_mask_F00F_Z _ _⟩

theorem MatchesRow.jp (nnn : Addr12) : MatchesRow.Statement (.jp nnn) :=
  ⟨⟨"JP nnn", 0x1000#16, 0xF000#16⟩, by simp [opcodeTable, opcodeRowsZero, opcodeRowsLow, opcodeRows8,
    opcodeRowsHigh, opcodeRowsF], rfl, selects_mask_F000_A _ _⟩

theorem MatchesRow.call (nnn : Addr12) : MatchesRow.Statement (.call nnn) :=
  ⟨⟨"CALL nnn", 0x2000#16, 0xF000#16⟩, by simp [opcodeTable, opcodeRowsZero, opcodeRowsLow, opcodeRows8,
    opcodeRowsHigh, opcodeRowsF], rfl, selects_mask_F000_A _ _⟩

theorem MatchesRow.seImm (x : Nibble) (kk : Byte) : MatchesRow.Statement (.seImm x kk) :=
  ⟨⟨"SE Vx,kk", 0x3000#16, 0xF000#16⟩, by simp [opcodeTable, opcodeRowsZero, opcodeRowsLow, opcodeRows8,
    opcodeRowsHigh, opcodeRowsF], rfl, selects_mask_F000_XK _ _ _⟩

theorem MatchesRow.sneImm (x : Nibble) (kk : Byte) : MatchesRow.Statement (.sneImm x kk) :=
  ⟨⟨"SNE Vx,kk", 0x4000#16, 0xF000#16⟩, by simp [opcodeTable, opcodeRowsZero, opcodeRowsLow, opcodeRows8,
    opcodeRowsHigh, opcodeRowsF], rfl, selects_mask_F000_XK _ _ _⟩

theorem MatchesRow.seReg (x : Nibble) (y : Nibble) : MatchesRow.Statement (.seReg x y) :=
  ⟨⟨"SE Vx,Vy", 0x5000#16, 0xF00F#16⟩, by simp [opcodeTable, opcodeRowsZero, opcodeRowsLow, opcodeRows8,
    opcodeRowsHigh, opcodeRowsF], rfl, selects_mask_F00F_XY _ _ _ _⟩

theorem MatchesRow.ldImm (x : Nibble) (kk : Byte) : MatchesRow.Statement (.ldImm x kk) :=
  ⟨⟨"LD Vx,kk", 0x6000#16, 0xF000#16⟩, by simp [opcodeTable, opcodeRowsZero, opcodeRowsLow, opcodeRows8,
    opcodeRowsHigh, opcodeRowsF], rfl, selects_mask_F000_XK _ _ _⟩

theorem MatchesRow.addImm (x : Nibble) (kk : Byte) : MatchesRow.Statement (.addImm x kk) :=
  ⟨⟨"ADD Vx,kk", 0x7000#16, 0xF000#16⟩, by simp [opcodeTable, opcodeRowsZero, opcodeRowsLow, opcodeRows8,
    opcodeRowsHigh, opcodeRowsF], rfl, selects_mask_F000_XK _ _ _⟩

theorem MatchesRow.ldReg (x : Nibble) (y : Nibble) : MatchesRow.Statement (.ldReg x y) :=
  ⟨⟨"LD Vx,Vy", 0x8000#16, 0xF00F#16⟩, by simp [opcodeTable, opcodeRowsZero, opcodeRowsLow, opcodeRows8,
    opcodeRowsHigh, opcodeRowsF], rfl, selects_mask_F00F_XY _ _ _ _⟩

theorem MatchesRow.orReg (x : Nibble) (y : Nibble) : MatchesRow.Statement (.orReg x y) :=
  ⟨⟨"OR Vx,Vy", 0x8001#16, 0xF00F#16⟩, by simp [opcodeTable, opcodeRowsZero, opcodeRowsLow, opcodeRows8,
    opcodeRowsHigh, opcodeRowsF], rfl, selects_mask_F00F_XY _ _ _ _⟩

theorem MatchesRow.andReg (x : Nibble) (y : Nibble) : MatchesRow.Statement (.andReg x y) :=
  ⟨⟨"AND Vx,Vy", 0x8002#16, 0xF00F#16⟩, by simp [opcodeTable, opcodeRowsZero, opcodeRowsLow, opcodeRows8,
    opcodeRowsHigh, opcodeRowsF], rfl, selects_mask_F00F_XY _ _ _ _⟩

theorem MatchesRow.xorReg (x : Nibble) (y : Nibble) : MatchesRow.Statement (.xorReg x y) :=
  ⟨⟨"XOR Vx,Vy", 0x8003#16, 0xF00F#16⟩, by simp [opcodeTable, opcodeRowsZero, opcodeRowsLow, opcodeRows8,
    opcodeRowsHigh, opcodeRowsF], rfl, selects_mask_F00F_XY _ _ _ _⟩

theorem MatchesRow.addReg (x : Nibble) (y : Nibble) : MatchesRow.Statement (.addReg x y) :=
  ⟨⟨"ADD Vx,Vy", 0x8004#16, 0xF00F#16⟩, by simp [opcodeTable, opcodeRowsZero, opcodeRowsLow, opcodeRows8,
    opcodeRowsHigh, opcodeRowsF], rfl, selects_mask_F00F_XY _ _ _ _⟩

theorem MatchesRow.subReg (x : Nibble) (y : Nibble) : MatchesRow.Statement (.subReg x y) :=
  ⟨⟨"SUB Vx,Vy", 0x8005#16, 0xF00F#16⟩, by simp [opcodeTable, opcodeRowsZero, opcodeRowsLow, opcodeRows8,
    opcodeRowsHigh, opcodeRowsF], rfl, selects_mask_F00F_XY _ _ _ _⟩

theorem MatchesRow.shr (x : Nibble) (y : Nibble) : MatchesRow.Statement (.shr x y) :=
  ⟨⟨"SHR Vx", 0x8006#16, 0xF00F#16⟩, by simp [opcodeTable, opcodeRowsZero, opcodeRowsLow, opcodeRows8,
    opcodeRowsHigh, opcodeRowsF], rfl, selects_mask_F00F_XY _ _ _ _⟩

theorem MatchesRow.subnReg (x : Nibble) (y : Nibble) : MatchesRow.Statement (.subnReg x y) :=
  ⟨⟨"SUBN Vx,Vy", 0x8007#16, 0xF00F#16⟩, by simp [opcodeTable, opcodeRowsZero, opcodeRowsLow, opcodeRows8,
    opcodeRowsHigh, opcodeRowsF], rfl, selects_mask_F00F_XY _ _ _ _⟩

theorem MatchesRow.shl (x : Nibble) (y : Nibble) : MatchesRow.Statement (.shl x y) :=
  ⟨⟨"SHL Vx", 0x800E#16, 0xF00F#16⟩, by simp [opcodeTable, opcodeRowsZero, opcodeRowsLow, opcodeRows8,
    opcodeRowsHigh, opcodeRowsF], rfl, selects_mask_F00F_XY _ _ _ _⟩

theorem MatchesRow.sneReg (x : Nibble) (y : Nibble) : MatchesRow.Statement (.sneReg x y) :=
  ⟨⟨"SNE Vx,Vy", 0x9000#16, 0xF00F#16⟩, by simp [opcodeTable, opcodeRowsZero, opcodeRowsLow, opcodeRows8,
    opcodeRowsHigh, opcodeRowsF], rfl, selects_mask_F00F_XY _ _ _ _⟩

theorem MatchesRow.ldI (nnn : Addr12) : MatchesRow.Statement (.ldI nnn) :=
  ⟨⟨"LD I,nnn", 0xA000#16, 0xF000#16⟩, by simp [opcodeTable, opcodeRowsZero, opcodeRowsLow, opcodeRows8,
    opcodeRowsHigh, opcodeRowsF], rfl, selects_mask_F000_A _ _⟩

theorem MatchesRow.jpV0 (nnn : Addr12) : MatchesRow.Statement (.jpV0 nnn) :=
  ⟨⟨"JP V0,nnn", 0xB000#16, 0xF000#16⟩, by simp [opcodeTable, opcodeRowsZero, opcodeRowsLow, opcodeRows8,
    opcodeRowsHigh, opcodeRowsF], rfl, selects_mask_F000_A _ _⟩

theorem MatchesRow.rnd (x : Nibble) (kk : Byte) : MatchesRow.Statement (.rnd x kk) :=
  ⟨⟨"RND Vx,kk", 0xC000#16, 0xF000#16⟩, by simp [opcodeTable, opcodeRowsZero, opcodeRowsLow, opcodeRows8,
    opcodeRowsHigh, opcodeRowsF], rfl, selects_mask_F000_XK _ _ _⟩

theorem MatchesRow.drw (x : Nibble) (y : Nibble) (n : Nibble) : MatchesRow.Statement (.drw x y n) :=
  ⟨⟨"DRW Vx,Vy,n", 0xD000#16, 0xF000#16⟩, by simp [opcodeTable, opcodeRowsZero, opcodeRowsLow, opcodeRows8,
    opcodeRowsHigh, opcodeRowsF], rfl, selects_mask_F000_XY _ _ _ _⟩

theorem MatchesRow.skp (x : Nibble) : MatchesRow.Statement (.skp x) :=
  ⟨⟨"SKP Vx", 0xE09E#16, 0xF0FF#16⟩, by simp [opcodeTable, opcodeRowsZero, opcodeRowsLow, opcodeRows8,
    opcodeRowsHigh, opcodeRowsF], rfl, selects_mask_F0FF_XS _ _ _⟩

theorem MatchesRow.sknp (x : Nibble) : MatchesRow.Statement (.sknp x) :=
  ⟨⟨"SKNP Vx", 0xE0A1#16, 0xF0FF#16⟩, by simp [opcodeTable, opcodeRowsZero, opcodeRowsLow, opcodeRows8,
    opcodeRowsHigh, opcodeRowsF], rfl, selects_mask_F0FF_XS _ _ _⟩

theorem MatchesRow.ldVxDt (x : Nibble) : MatchesRow.Statement (.ldVxDt x) :=
  ⟨⟨"LD Vx,DT", 0xF007#16, 0xF0FF#16⟩, by simp [opcodeTable, opcodeRowsZero, opcodeRowsLow, opcodeRows8,
    opcodeRowsHigh, opcodeRowsF], rfl, selects_mask_F0FF_XS _ _ _⟩

theorem MatchesRow.ldVxK (x : Nibble) : MatchesRow.Statement (.ldVxK x) :=
  ⟨⟨"LD Vx,K", 0xF00A#16, 0xF0FF#16⟩, by simp [opcodeTable, opcodeRowsZero, opcodeRowsLow, opcodeRows8,
    opcodeRowsHigh, opcodeRowsF], rfl, selects_mask_F0FF_XS _ _ _⟩

theorem MatchesRow.ldDtVx (x : Nibble) : MatchesRow.Statement (.ldDtVx x) :=
  ⟨⟨"LD DT,Vx", 0xF015#16, 0xF0FF#16⟩, by simp [opcodeTable, opcodeRowsZero, opcodeRowsLow, opcodeRows8,
    opcodeRowsHigh, opcodeRowsF], rfl, selects_mask_F0FF_XS _ _ _⟩

theorem MatchesRow.ldStVx (x : Nibble) : MatchesRow.Statement (.ldStVx x) :=
  ⟨⟨"LD ST,Vx", 0xF018#16, 0xF0FF#16⟩, by simp [opcodeTable, opcodeRowsZero, opcodeRowsLow, opcodeRows8,
    opcodeRowsHigh, opcodeRowsF], rfl, selects_mask_F0FF_XS _ _ _⟩

theorem MatchesRow.addI (x : Nibble) : MatchesRow.Statement (.addI x) :=
  ⟨⟨"ADD I,Vx", 0xF01E#16, 0xF0FF#16⟩, by simp [opcodeTable, opcodeRowsZero, opcodeRowsLow, opcodeRows8,
    opcodeRowsHigh, opcodeRowsF], rfl, selects_mask_F0FF_XS _ _ _⟩

theorem MatchesRow.ldF (x : Nibble) : MatchesRow.Statement (.ldF x) :=
  ⟨⟨"LD F,Vx", 0xF029#16, 0xF0FF#16⟩, by simp [opcodeTable, opcodeRowsZero, opcodeRowsLow, opcodeRows8,
    opcodeRowsHigh, opcodeRowsF], rfl, selects_mask_F0FF_XS _ _ _⟩

theorem MatchesRow.ldB (x : Nibble) : MatchesRow.Statement (.ldB x) :=
  ⟨⟨"LD B,Vx", 0xF033#16, 0xF0FF#16⟩, by simp [opcodeTable, opcodeRowsZero, opcodeRowsLow, opcodeRows8,
    opcodeRowsHigh, opcodeRowsF], rfl, selects_mask_F0FF_XS _ _ _⟩

theorem MatchesRow.storeRegs (x : Nibble) : MatchesRow.Statement (.storeRegs x) :=
  ⟨⟨"LD [I],Vx", 0xF055#16, 0xF0FF#16⟩, by simp [opcodeTable, opcodeRowsZero, opcodeRowsLow, opcodeRows8,
    opcodeRowsHigh, opcodeRowsF], rfl, selects_mask_F0FF_XS _ _ _⟩

theorem MatchesRow.loadRegs (x : Nibble) : MatchesRow.Statement (.loadRegs x) :=
  ⟨⟨"LD Vx,[I]", 0xF065#16, 0xF0FF#16⟩, by simp [opcodeTable, opcodeRowsZero, opcodeRowsLow, opcodeRows8,
    opcodeRowsHigh, opcodeRowsF], rfl, selects_mask_F0FF_XS _ _ _⟩

end Sys2Proof.Laws
end

