-- ==== Sys2Proof/Laws/Step.lean ====
section
/-! SUPPORT. What a handler, a tick and a host operation can do, each said once. -/

namespace Sys2Proof.Machine

/-- Every handler answers a next state. -/
theorem exec_completes (i : Instr) (s : State) : ∃ t, exec i s = .next t := by
  cases i <;> exact ⟨_, rfl⟩

/-- From a state with nothing latched, a handler latches nothing or raises one of three faults and does nothing else
(60_exceptions.md R201, R205). -/
theorem exec_latch_cases {i : Instr} {s t : State} (h : exec i s = .next t) (hs : s.fault = none) :
    t.fault = none ∨ ∃ c, t = raise c (encode i) s ∧
      ((c = .stackOverflow ∧ 16 ≤ s.stack.length ∧ ∃ nnn, i = .call nnn) ∨
        (c = .stackUnderflow ∧ s.stack = [] ∧ ∃ ii, i = .ret ii) ∨
        ∃ x, c = .keyIndexOutOfRange (readReg s x) ∧ 15 < (readReg s x).toNat ∧ (i = .skp x ∨ i = .sknp x)) := by
  cases i
  case ret ii =>
    cases h
    rcases returnFromCall_cases (encode (.ret ii)) s with ⟨h, e⟩ | ⟨_, _, _, e⟩ <;> rw [e]
    · exact .inr ⟨_, rfl, .inr (.inl ⟨rfl, h, _, rfl⟩)⟩
    · exact .inl hs
  case call nnn =>
    cases h
    rcases callTo_cases (zext16Addr nnn) (encode (.call nnn)) s with ⟨h, e⟩ | ⟨_, e⟩ <;> rw [e]
    · exact .inr ⟨_, rfl, .inl ⟨rfl, h, _, rfl⟩⟩
    · exact .inl hs
  case skp x =>
    cases h
    rcases skipIfKey_cases true x (encode (.skp x)) s with ⟨h, e⟩ | ⟨_, e⟩ <;> rw [e]
    · exact .inr ⟨_, rfl, .inr (.inr ⟨x, rfl, h, .inl rfl⟩)⟩
    · exact .inl hs
  case sknp x =>
    cases h
    rcases skipIfKey_cases false x (encode (.sknp x)) s with ⟨h, e⟩ | ⟨_, e⟩ <;> rw [e]
    · exact .inr ⟨_, rfl, .inr (.inr ⟨x, rfl, h, .inr rfl⟩)⟩
    · exact .inl hs
  all_goals (cases h; left; exact hs)

/-- The four ways a step can go (47_cycle_step.md R162). -/
theorem step_cases {s t : State} (h : step s = .next t) :
    (s.fault ≠ none ∧ t = s) ∨
      (s.fault = none ∧ s.waiting = true ∧ t = keyWaitPoll s) ∨
      (s.fault = none ∧ s.waiting = false ∧ decode Config.zeroGroupStrict (fetch s) = .unknownOpcode ∧
        t = raise .unknownOpcode (fetch s) s) ∨
      (s.fault = none ∧ s.waiting = false ∧ ∃ i u, decode Config.zeroGroupStrict (fetch s) = .handler i ∧
        exec i s = .next u ∧ ((u.fault = none ∧ t = timerTick u) ∨ (u.fault ≠ none ∧ t = u))) := by
  unfold step tick at h
  split at h
  · cases h
    exact .inl ⟨by rintro hf; simp_all, rfl⟩
  · have hf : s.fault = none := by simp_all
    split at h
    · cases h
      exact .inr (.inl ⟨hf, ‹_›, rfl⟩)
    · have hw : s.waiting = false := by simp_all
      unfold runningTick at h
      split at h
      · cases h
        exact .inr (.inr (.inl ⟨hf, hw, ‹_›, rfl⟩))
      · rename_i i hd
        obtain ⟨u, hu⟩ := exec_completes i s
        rw [hu] at h
        refine .inr (.inr (.inr ⟨hf, hw, i, u, hd, hu, ?_⟩))
        simp only [endOfTick] at h
        cases h
        cases u.fault <;> simp

/-- An accepted `SetKey` changes the input latch alone (48_host_interface.md R185). -/
theorem setKey_done {index : Nat} {pressed : Bool} {s t : State} (h : setKey index pressed s = .done t) :
    ∃ keys last seen, t = { s with key := keys, lastKey := last, kp := seen } := by
  unfold setKey at h
  split at h
  · split at h
    · cases h
      exact ⟨_, _, _, rfl⟩
    · split at h <;> cases h
      · exact ⟨_, s.lastKey, s.kp, rfl⟩
      · exact ⟨s.key, s.lastKey, s.kp, rfl⟩
  · cases h

/-- An accepted load had room, and changes memory alone (R182). -/
theorem loadProgram_done {bytes : List Byte} {s t : State} (h : loadProgram bytes s = .done t) :
    bytes.length ≤ 3584 ∧ t = { s with mem := s.mem.writeBytes Config.progBase bytes } := by
  unfold loadProgram at h
  split at h <;> cases h
  exact ⟨‹_›, rfl⟩

/-- What an event can lead to (R181): `Reset`; an accepted load; the same session, after a read or a rejection; an accepted
`SetKey`; an acknowledgement; a tick. -/
theorem apply_cases {ss ss' : Session} {e : Event} {reply : Reply} (h : ss.apply e = .next ss' reply) :
    (e = .reset ∧ ss' = { core := hostReset ss.core, loadable := true }) ∨
      (∃ bytes t, e = .loadProgram bytes ∧ ss.loadable = true ∧ loadProgram bytes ss.core = .done t ∧
        ss' = { core := t, loadable := false }) ∨
      (e ≠ .reset ∧ e ≠ .tick ∧ reply ≠ .done ∧ ss' = ss) ∨
      (∃ index pressed t, e = .setKey index pressed ∧ setKey index pressed ss.core = .done t ∧
        ss' = { ss with core := t }) ∨
      (e = .ackRedraw ∧ ss' = { ss with core := ackRedraw ss.core }) ∨
      ∃ t, e = .tick ∧ step ss.core = .next t ∧ ss' = { core := t, loadable := false } := by
  cases e with
  | reset =>
    cases h
    exact .inl ⟨rfl, rfl⟩
  | loadProgram bytes =>
    simp only [Session.apply] at h
    split at h
    · rename_i hl
      cases hr : loadProgram bytes ss.core <;> rw [hr] at h <;> cases h
      · exact .inr (.inl ⟨_, _, rfl, hl, hr, rfl⟩)
      · exact .inr (.inr (.inl ⟨nofun, nofun, nofun, rfl⟩))
    · cases h
  | setKey index pressed =>
    simp only [Session.apply] at h
    cases hr : setKey index pressed ss.core <;> rw [hr] at h <;> cases h
    · exact .inr (.inr (.inr (.inl ⟨_, _, _, rfl, hr, rfl⟩)))
    · exact .inr (.inr (.inl ⟨nofun, nofun, nofun, rfl⟩))
  | readDisplay =>
    cases h
    exact .inr (.inr (.inl ⟨nofun, nofun, nofun, rfl⟩))
  | ackRedraw =>
    cases h
    exact .inr (.inr (.inr (.inr (.inl ⟨rfl, rfl⟩))))
  | tick =>
    simp only [Session.apply] at h
    cases hr : step ss.core <;> rw [hr] at h <;> cases h
    exact .inr (.inr (.inr (.inr (.inr ⟨_, rfl, rfl, rfl⟩))))

/-- The word placed where the next tick fetches is the word it fetches (20_memory.md R53, R64). -/
theorem fetch_placeWord (w : Word) (s : State) : fetch (placeWord w s) = w := by
  have h0 : (placeWord w s).mem.read s.pc.toNat = highByte w := by
    simp only [placeWord, read_write]
    rw [if_neg (by omega)]
    simp
  have h1 : (placeWord w s).mem.read (s.pc.toNat + 1) = lowByte w := by
    simp only [placeWord, read_write, if_true]
  change (placeWord w s).mem.read s.pc.toNat ++ (placeWord w s).mem.read (s.pc.toNat + 1) = w
  rw [h0, h1]
  exact (BitVec.extractLsb'_append_extractLsb'_eq_extractLsb' (by decide)).trans BitVec.extractLsb'_eq_self

end Sys2Proof.Machine
end

