-- ==== Sys2Proof/Tests/Slice0.lean ====
section
/-! SUPPORT. Tests of the model, each expected value from spec/95_test_vectors.md (the vector's id stands in the docstring)
or from the encodings of spec/30_encoding.md, and the witnesses that the hypotheses of the obligations can be met. -/

namespace Sys2Proof.Tests

open Sys2Proof.Machine

set_option Elab.async false -- one test after the other: elaborated at once they need a thread each

/-! ### Helpers -/

/-- The reset state changed by `f`, with the word `w` where the next tick fetches. -/
def boot (w : Nat) (f : State → State := id) : State := (f State.reset).withFetchWord 16 w

/-- Whether the state's next tick answers a next state of which `p` holds. -/
def stepsTo (s : State) (p : State → Bool) : Bool :=
  match step s with
  | .next t => p t
  | .fault _ => false
  | .refused _ => false

/-- Set three registers. -/
def regs (l : List (Nibble × Byte)) (s : State) : State := l.foldl (fun s p => writeReg p.1 p.2 s) s

/-- Bytes of memory, `I` at their start. -/
def bytesAt (i : Word) (l : List Byte) (s : State) : State :=
  { s with I := i, mem := s.mem.writeBytes i.toNat l }

/-- The first `count` bytes from address `a`. -/
def bytesFrom (s : State) (a count : Nat) : List Byte := (List.range count).map fun k => s.mem.read (a + k)

/-- Whether the listed pixels of a row are as said. -/
def pixelsAre (s : State) (row : Nat) (on : Bool) (cols : List Nat) : Bool :=
  cols.all fun col => s.disp.pixel row col == on

/-- Whether the latch holds a cause, at address 0x200, with a word. -/
def latched (cause : FaultCause) (w : Word) (s : State) : Bool :=
  s.fault == some { cause := cause, pc := 0x200#16, opcode := w } && s.pc == 0x200#16

/-! ### WellFormed (R76): each check refuses an ill-formed term -/

theorem test_wf_refuses_cls_noncanonical : (Instr.cls 0x00#8).wf true = false := by decide +kernel
theorem test_wf_refuses_ret_noncanonical : (Instr.ret 0x12#8).wf true = false := by decide +kernel
theorem test_wf_accepts : (Instr.cls 0x0E#8).wf true = true ∧ (Instr.ret 0x12#8).wf false = true := by decide +kernel

/-! ### Decoding, one word per constructor, written bit by bit from the formats of R71 and the selectors of R74 to R80 -/

/-- Group 0x0 and flow control (R76, R91 to R97). -/
theorem test_decode_flow :
    decode false 0b0000000011100000#16 = .handler (.cls 0x0E#8) ∧
    decode false 0b0000000011101110#16 = .handler (.ret 0x0E#8) ∧
    decode false 0b0001101010111100#16 = .handler (.jp 0xABC#12) ∧
    decode false 0b0010001000010000#16 = .handler (.call 0x210#12) ∧
    decode false 0b0011001101000010#16 = .handler (.seImm 3#4 0x42#8) ∧
    decode false 0b0100001101000010#16 = .handler (.sneImm 3#4 0x42#8) ∧
    decode false 0b0101000100100000#16 = .handler (.seReg 1#4 2#4) ∧
    decode false 0b1001000100100000#16 = .handler (.sneReg 1#4 2#4) ∧
    decode false 0b1011001100000000#16 = .handler (.jpV0 0x300#12) := by decide +kernel

/-- Loads, arithmetic and logic (V-DE-6). -/
theorem test_decode_arithmetic :
    decode false 0b0110000000000101#16 = .handler (.ldImm 0#4 5#8) ∧
    decode false 0b0111000000000011#16 = .handler (.addImm 0#4 3#8) ∧
    decode false 0b1000101010110000#16 = .handler (.ldReg 0xA#4 0xB#4) ∧
    decode false 0b1000101010110001#16 = .handler (.orReg 0xA#4 0xB#4) ∧
    decode false 0b1000101010110010#16 = .handler (.andReg 0xA#4 0xB#4) ∧
    decode false 0b1000101010110011#16 = .handler (.xorReg 0xA#4 0xB#4) ∧
    decode false 0b1000101010110100#16 = .handler (.addReg 0xA#4 0xB#4) ∧
    decode false 0b1000101010110101#16 = .handler (.subReg 0xA#4 0xB#4) ∧
    decode false 0b1000101010110110#16 = .handler (.shr 0xA#4 0xB#4) ∧
    decode false 0b1000101010110111#16 = .handler (.subnReg 0xA#4 0xB#4) ∧
    decode false 0b1000101010111110#16 = .handler (.shl 0xA#4 0xB#4) := by decide +kernel

/-- Index, random, display, keys, timers (V-DE-7, V-DE-8). -/
theorem test_decode_other :
    decode false 0b1010001000010000#16 = .handler (.ldI 0x210#12) ∧
    decode false 0b1100001100001111#16 = .handler (.rnd 3#4 0x0F#8) ∧
    decode false 0b1101000100100011#16 = .handler (.drw 1#4 2#4 3#4) ∧
    decode false 0b1110001110011110#16 = .handler (.skp 3#4) ∧
    decode false 0b1110001110100001#16 = .handler (.sknp 3#4) ∧
    decode false 0b1111101000000111#16 = .handler (.ldVxDt 0xA#4) ∧
    decode false 0b1111101000001010#16 = .handler (.ldVxK 0xA#4) ∧
    decode false 0b1111101000010101#16 = .handler (.ldDtVx 0xA#4) ∧
    decode false 0b1111101000011000#16 = .handler (.ldStVx 0xA#4) ∧
    decode false 0b1111101000011110#16 = .handler (.addI 0xA#4) ∧
    decode false 0b1111101000101001#16 = .handler (.ldF 0xA#4) ∧
    decode false 0b1111101000110011#16 = .handler (.ldB 0xA#4) ∧
    decode false 0b1111101001010101#16 = .handler (.storeRegs 0xA#4) ∧
    decode false 0b1111101001100101#16 = .handler (.loadRegs 0xA#4) := by decide +kernel

/-- Unknown in both settings (V-DE-5, V-DE-9, V-FC-17, V-FC-20, V-AL-26, V-KY-7, V-MI-16). -/
theorem test_decode_unknown :
    ([0x0123#16, 0x00E1#16, 0x0FFF#16, 0x5121#16, 0x9121#16, 0x8128#16, 0x812F#16, 0xE39F#16, 0xFA00#16, 0xFA1F#16,
      0xFA75#16, 0xFA85#16, 0xF0FF#16].all fun w =>
        decide (decode false w = .unknownOpcode ∧ decode true w = .unknownOpcode)) = true := by decide +kernel

/-- V-DE-3, V-DE-4: CLS and RET by default, unknown when `ZERO_GROUP_STRICT`. -/
theorem test_decode_zero_group :
    decode false 0x0120#16 = .handler (.cls 0x12#8) ∧ decode false 0x012E#16 = .handler (.ret 0x12#8) ∧
    decode true 0x0120#16 = .unknownOpcode ∧ decode true 0x012E#16 = .unknownOpcode ∧
    decode true 0x0000#16 = .unknownOpcode ∧ decode true 0x00EE#16 = .handler (.ret 0x0E#8) := by decide +kernel

/-- The host's numbering of a row's bits, and the byte order of R53. -/
theorem test_decodeTableWord :
    decodeTableWord 16 0xD123 = some (.drw 1#4 2#4 3#4) ∧ decodeTableWord 16 0x5123 = none ∧
    decodeBytes false 0xD1#8 0x23#8 = .handler (.drw 1#4 2#4 3#4) := by decide +kernel

/-- The four lines of assembler text R85 shows. -/
theorem test_asmText :
    (asmText (.cls 0x0E#8) == "CLS" && asmText (.ldImm 0#4 5#8) == "LD V0,5" &&
      asmText (.addImm 0#4 3#8) == "ADD V0,3" && asmText (.ldI 0x210#12) == "LD I,0x210") = true := by decide +kernel

/-! ### Flow control -/

/-- V-FC-1. -/
theorem test_jp : stepsTo (boot 0x1ABC) (fun t => t.pc == 0x0ABC#16 && t.stack == []) = true := by decide +kernel
/-- V-FC-4. -/
theorem test_call :
    stepsTo (boot 0x2210 fun s => { s with pc := 0x204#16 }) (fun t => t.stack == [0x204#16] && t.pc == 0x210#16) = true := by
  decide +kernel
/-- V-FC-9: the seventeenth nested CALL faults. -/
theorem test_call_overflow :
    stepsTo (boot 0x2300 fun s => { s with stack := List.replicate 16 0x200#16 })
      (fun t => latched .stackOverflow 0x2300#16 t && t.stack.length == 16) = true := by decide +kernel
/-- V-FC-5, V-FC-7. -/
theorem test_ret :
    stepsTo (boot 0x00EE fun s => { s with pc := 0x212#16, stack := [0x204#16] })
      (fun t => t.stack == [] && t.pc == 0x206#16) = true ∧
    stepsTo (boot 0x00EE fun s => { s with stack := [0xFFFE#16] }) (fun t => t.pc == 0#16) = true := by decide +kernel
/-- V-FC-6. -/
theorem test_ret_underflow :
    stepsTo (boot 0x00EE fun s => { s with dt := 3#8 })
      (fun t => latched .stackUnderflow 0x00EE#16 t && t.dt == 3#8) = true := by decide +kernel
/-- V-FC-10, V-FC-11. -/
theorem test_seImm :
    stepsTo (boot 0x3342 (regs [(3, 0x42)])) (fun t => t.pc == 0x204#16) = true ∧
    stepsTo (boot 0x3342 (regs [(3, 0x41)])) (fun t => t.pc == 0x202#16) = true := by decide +kernel
/-- V-FC-12, V-FC-13. -/
theorem test_sneImm :
    stepsTo (boot 0x4342 (regs [(3, 0x41)])) (fun t => t.pc == 0x204#16) = true ∧
    stepsTo (boot 0x4342 (regs [(3, 0x42)])) (fun t => t.pc == 0x202#16) = true := by decide +kernel
/-- V-FC-14, V-FC-15. -/
theorem test_seReg :
    stepsTo (boot 0x5120 (regs [(1, 7), (2, 7)])) (fun t => t.pc == 0x204#16) = true ∧
    stepsTo (boot 0x5120 (regs [(1, 7), (2, 8)])) (fun t => t.pc == 0x202#16) = true := by decide +kernel
/-- V-FC-18, V-FC-19. -/
theorem test_sneReg :
    stepsTo (boot 0x9120 (regs [(1, 7), (2, 8)])) (fun t => t.pc == 0x204#16) = true ∧
    stepsTo (boot 0x9120 (regs [(1, 7), (2, 7)])) (fun t => t.pc == 0x202#16) = true := by decide +kernel
/-- V-FC-22: not masked to 12 bits. -/
theorem test_jpV0 : stepsTo (boot 0xBFFF (regs [(0, 0xFF)])) (fun t => t.pc == 0x10FE#16) = true := by decide +kernel
/-- V-FC-23: past the top of memory the fetch wraps into the font. -/
theorem test_pc_past_memory :
    stepsTo (boot 0x6001 fun s => { s with pc := 0xFFE#16 })
      (fun t => t.pc == 0x1000#16 && fetch t == 0xF090#16) = true := by decide +kernel

/-! ### Arithmetic and logic -/

/-- V-AL-1. -/
theorem test_ldImm :
    stepsTo (boot 0x60FF) (fun t => readReg t 0 == 0xFF#8 && readReg t vf == 0#8 && t.pc == 0x202#16) = true := by decide +kernel
/-- V-AL-2: no carry flag. -/
theorem test_addImm :
    stepsTo (boot 0x7001 (regs [(0, 0xFF)])) (fun t => readReg t 0 == 0#8 && readReg t vf == 0#8) = true := by decide +kernel
/-- V-AL-3. -/
theorem test_ldReg :
    stepsTo (boot 0x8120 (regs [(1, 0x11), (2, 0x22)])) (fun t => readReg t 1 == 0x22#8 && readReg t 2 == 0x22#8) = true := by
  decide +kernel
/-- V-AL-4. -/
theorem test_orReg :
    stepsTo (boot 0x8121 (regs [(1, 0x0F), (2, 0xF0), (15, 1)]))
      (fun t => readReg t 1 == 0xFF#8 && readReg t vf == 1#8) = true := by decide +kernel
/-- V-AL-5. -/
theorem test_andReg :
    stepsTo (boot 0x8122 (regs [(1, 0x3C), (2, 0x0F), (15, 1)]))
      (fun t => readReg t 1 == 0x0C#8 && readReg t vf == 1#8) = true := by decide +kernel
/-- V-AL-6. -/
theorem test_xorReg :
    stepsTo (boot 0x8123 (regs [(1, 0xFF), (2, 0x0F), (15, 1)]))
      (fun t => readReg t 1 == 0xF0#8 && readReg t vf == 1#8) = true := by decide +kernel
/-- V-AL-8, V-AL-9: the sums 255 and 256. -/
theorem test_addReg :
    stepsTo (boot 0x8124 (regs [(1, 0x80), (2, 0x7F), (15, 1)]))
      (fun t => readReg t 1 == 0xFF#8 && readReg t vf == 0#8) = true ∧
    stepsTo (boot 0x8124 (regs [(1, 0xFF), (2, 0x01)])) (fun t => readReg t 1 == 0#8 && readReg t vf == 1#8) = true := by
  decide +kernel
/-- V-AL-10, V-AL-11: VF as destination and as operand. -/
theorem test_addReg_vf :
    stepsTo (boot 0x8F14 (regs [(15, 0xFF), (1, 2)])) (fun t => readReg t vf == 1#8 && readReg t 1 == 2#8) = true ∧
    stepsTo (boot 0x81F4 (regs [(1, 1), (15, 0xFF)])) (fun t => readReg t 1 == 0#8 && readReg t vf == 1#8) = true := by
  decide +kernel
/-- V-AL-14, V-AL-15. -/
theorem test_subReg :
    stepsTo (boot 0x8125 (regs [(1, 5), (2, 7)])) (fun t => readReg t 1 == 0xFE#8 && readReg t vf == 0#8) = true ∧
    stepsTo (boot 0x8125 (regs [(1, 7), (2, 7)])) (fun t => readReg t 1 == 0#8 && readReg t vf == 1#8) = true := by decide +kernel
/-- V-AL-18, V-AL-19. -/
theorem test_subnReg :
    stepsTo (boot 0x8127 (regs [(1, 5), (2, 7)])) (fun t => readReg t 1 == 2#8 && readReg t vf == 1#8) = true ∧
    stepsTo (boot 0x8127 (regs [(1, 7), (2, 5)])) (fun t => readReg t 1 == 0xFE#8 && readReg t vf == 0#8) = true := by
  decide +kernel
/-- V-AL-21, V-AL-12: `y` is ignored; the shifted-out bit survives in VF. -/
theorem test_shr :
    stepsTo (boot 0x8126 (regs [(1, 5), (2, 0xAA)]))
      (fun t => readReg t 1 == 2#8 && readReg t vf == 1#8 && readReg t 2 == 0xAA#8) = true ∧
    stepsTo (boot 0x8F06 (regs [(15, 3)])) (fun t => readReg t vf == 1#8) = true := by decide +kernel
/-- V-AL-23, V-AL-24. -/
theorem test_shl :
    stepsTo (boot 0x812E (regs [(1, 0x81), (2, 0xAA)]))
      (fun t => readReg t 1 == 2#8 && readReg t vf == 1#8 && readReg t 2 == 0xAA#8) = true ∧
    stepsTo (boot 0x812E (regs [(1, 0x40), (15, 1)])) (fun t => readReg t 1 == 0x80#8 && readReg t vf == 0#8) = true := by
  decide +kernel

/-! ### Index and memory -/

/-- V-MI-1. -/
theorem test_ldI : stepsTo (boot 0xA210 fun s => { s with I := 0xFFFF#16 }) (fun t => t.I == 0x210#16) = true := by decide +kernel
/-- V-MI-3, V-MI-4. -/
theorem test_addI :
    stepsTo (boot 0xF31E fun s => regs [(3, 1)] { s with I := 0xFFF#16 })
      (fun t => t.I == 0x1000#16 && readReg t vf == 0#8) = true ∧
    stepsTo (boot 0xF31E fun s => regs [(3, 1)] { s with I := 0xFFFF#16 }) (fun t => t.I == 0#16) = true := by decide +kernel
/-- V-MI-5, V-MI-7: a digit, and a value above 15. -/
theorem test_ldF :
    stepsTo (boot 0xF029 (regs [(0, 0x0A)])) (fun t => t.I == 0x32#16) = true ∧
    stepsTo (boot 0xF029 (regs [(0, 0xFF)])) (fun t => t.I == 0x4FB#16) = true := by decide +kernel
/-- V-MI-8, V-MI-9: three digits, and the wrap at the top of memory. -/
theorem test_ldB :
    stepsTo (boot 0xF033 fun s => regs [(0, 0xEA)] { s with I := 0x300#16 })
      (fun t => bytesFrom t 0x300 3 == [2#8, 3#8, 4#8] && t.I == 0x300#16) = true ∧
    stepsTo (boot 0xF233 fun s => regs [(2, 0xFF)] { s with I := 0xFFE#16 })
      (fun t => bytesFrom t 0xFFE 2 == [2#8, 5#8] && t.mem.read 0 == 5#8 && t.mem.read 1 == 0x90#8) = true := by decide +kernel
/-- V-MI-11. -/
theorem test_storeRegs :
    stepsTo (boot 0xF255 fun s => regs [(0, 0x11), (1, 0x22), (2, 0x33), (3, 0x44)] { s with I := 0x400#16 })
      (fun t => bytesFrom t 0x400 4 == [0x11#8, 0x22#8, 0x33#8, 0#8] && t.I == 0x400#16) = true := by decide +kernel
/-- V-MI-15: a store may overwrite the instruction itself. -/
theorem test_storeRegs_self :
    stepsTo (boot 0xF155 fun s => regs [(0, 0x12)] { s with I := 0x200#16 })
      (fun t => bytesFrom t 0x200 2 == [0x12#8, 0#8] && t.pc == 0x202#16) = true := by decide +kernel
/-- V-MI-13. -/
theorem test_loadRegs :
    stepsTo (boot 0xF265 fun s => regs [(3, 0x77)] (bytesAt 0x300#16 [2, 3, 4, 5] s))
      (fun t => [readReg t 0, readReg t 1, readReg t 2, readReg t 3] == [2#8, 3#8, 4#8, 0x77#8] && t.I == 0x300#16) =
      true := by decide +kernel
/-- V-MI-14: the font into all registers, VF a plain one. -/
theorem test_loadRegs_font :
    stepsTo (boot 0xFF65)
      (fun t => t.v.toList == [0xF0#8, 0x90#8, 0x90#8, 0x90#8, 0xF0#8, 0x20#8, 0x60#8, 0x20#8, 0x20#8, 0x70#8, 0xF0#8,
        0x10#8, 0xF0#8, 0x80#8, 0xF0#8, 0xF0#8]) = true := by decide +kernel

/-! ### Display -/

/-- V-DP-1: `redraw` set, pixels off. -/
theorem test_cls :
    stepsTo (boot 0x00E0 fun s => { s with redraw := false, disp := s.disp.toggle 3 5 })
      (fun t => t.redraw && pixelsAre t 3 false [4, 5, 6]) = true := by decide +kernel
/-- V-DP-6: two sprite rows across two edges; the neighbours stay off. -/
theorem test_drw_wraps :
    stepsTo (boot 0xD012 fun s => regs [(0, 60), (1, 31)] (bytesAt 0x20C#16 [0xFF, 0x81] s))
      (fun t => pixelsAre t 31 true [60, 61, 62, 63, 0, 1, 2, 3] && pixelsAre t 31 false [59, 4] &&
        pixelsAre t 0 true [60, 3] && pixelsAre t 0 false [59, 61, 62, 63, 0, 1, 2, 4] && pixelsAre t 30 false [60] &&
        readReg t vf == 0#8 && t.redraw) = true := by decide +kernel
/-- V-DP-8: a collision. -/
theorem test_drw_collides :
    stepsTo (boot 0xD011 fun s => bytesAt 0x300#16 [0xC0] { s with disp := s.disp.toggle 0 0 })
      (fun t => pixelsAre t 0 true [1] && pixelsAre t 0 false [0, 2, 63] && readReg t vf == 1#8) = true := by
  decide +kernel

/-! ### Timers -/

/-- V-TM-4. -/
theorem test_ldVxDt :
    stepsTo (boot 0xF207 fun s => { s with dt := 9#8 }) (fun t => readReg t 2 == 9#8 && t.dt == 8#8) = true := by decide +kernel
/-- V-TM-1, V-TM-3: the handler's write, then the timer tick. -/
theorem test_ldDtVx :
    stepsTo (boot 0xF015 (regs [(0, 10)])) (fun t => t.dt == 9#8) = true ∧
    stepsTo (boot 0xF015 fun s => { s with dt := 5#8 }) (fun t => t.dt == 0#8) = true := by decide +kernel
/-- V-TM-6: both timers, independently. -/
theorem test_ldStVx :
    stepsTo (boot 0xF318 fun s => regs [(3, 0xFF)] { s with dt := 2#8 })
      (fun t => t.st == 0xFE#8 && t.dt == 1#8) = true := by decide +kernel
/-- V-TM-8: no timer tick on a faulting tick; the unknown word of S9. -/
theorem test_unknown_word :
    stepsTo (boot 0x5123 fun s => { s with dt := 3#8 })
      (fun t => latched .unknownOpcode 0x5123#16 t && t.dt == 3#8) = true := by decide +kernel
/-- V-DP-3: with `ZERO_GROUP_STRICT` the word 0x0000 is unknown. -/
theorem test_strict_tick :
    (match tick true (boot 0x0000) with
      | .next t => latched .unknownOpcode 0x0000#16 t
      | _ => false) = true := by decide +kernel

/-! ### Keys and the host -/

/-- V-KY-1, V-KY-2. -/
theorem test_skp :
    stepsTo (boot 0xE39E fun s => regs [(3, 7)] { s with key := s.key.set 7 true }) (fun t => t.pc == 0x204#16) = true ∧
    stepsTo (boot 0xE39E (regs [(3, 7)])) (fun t => t.pc == 0x202#16) = true := by decide +kernel
/-- V-KY-5: an index of 16. -/
theorem test_skp_range :
    stepsTo (boot 0xE39E (regs [(3, 0x10)])) (latched (.keyIndexOutOfRange 0x10#8) 0xE39E#16) = true := by decide +kernel
/-- V-KY-3, V-KY-4. -/
theorem test_sknp :
    stepsTo (boot 0xE3A1 (regs [(3, 7)])) (fun t => t.pc == 0x204#16) = true ∧
    stepsTo (boot 0xE3A1 fun s => regs [(3, 7)] { s with key := s.key.set 7 true }) (fun t => t.pc == 0x202#16) = true := by
  decide +kernel
/-- V-KY-6: the recorded value. -/
theorem test_sknp_range :
    stepsTo (boot 0xE3A1 (regs [(3, 0xFF)])) (latched (.keyIndexOutOfRange 0xFF#8) 0xE3A1#16) = true := by decide +kernel
/-- V-KY-8: the entry of the key-wait. -/
theorem test_ldVxK :
    stepsTo (boot 0xF50A fun s => { s with kp := true, key := s.key.set 2 true, dt := 4#8 })
      (fun t => t.waiting && !t.kp && t.wx == 5#4 && t.pc == 0x200#16 && t.dt == 3#8 && readReg t 5 == 0#8) = true := by
  decide +kernel
/-- V-KY-13: the commit to VF after a press of key 0. -/
theorem test_ldVxK_commit :
    (match setKey 0 true { State.reset with waiting := true, wx := 15#4, v := Vector.replicate 16 9#8, dt := 4#8 } with
      | .done s => stepsTo s fun t =>
        readReg t vf == 0#8 && t.pc == 0x202#16 && !t.waiting && !t.kp && t.dt == 4#8
      | .rejected _ => false) = true := by decide +kernel
/-- V-KY-14. -/
theorem test_setKey_range : setKey 16 true State.reset = .rejected .badKeyIndex := by decide +kernel
/-- The fault report's code (R188, R201; program P6). -/
theorem test_faultReport :
    stepsTo (boot 0x5123) (fun t => (faultReport t).map (·.1) == some 1) = true := by decide +kernel
/-- V-RN-2: masked with 0 every random byte gives 0, and `pc` moves on. -/
theorem test_rnd :
    ∃ t, step (boot 0xC300) = .next t ∧ readReg t 3 = 0#8 ∧ t.pc = 0x202#16 :=
  ⟨_, rfl, BitVec.and_zero, rfl⟩

/-! ### Witnesses: a state and operands that meet each obligation's hypotheses, every clause at its boundary -/

/-- A running state of 15 return addresses, CALL 0x210 next, and RET at 0x210. -/
def callState : State :=
  boot 0x2210 fun s => { s with stack := List.replicate 15 0x300#16, mem := s.mem.writeBytes 0x210 [0x00, 0xEE] }

/-- A running state of 16 return addresses, CALL 0x300 next. -/
def fullState : State := boot 0x2300 fun s => { s with stack := List.replicate 16 0x300#16 }

/-- `fullState` after its tick: halted on the overflow. -/
def haltedState : State :=
  { fullState with fault := some { cause := .stackOverflow, pc := 0x200#16, opcode := 0x2300#16 } }

/-- A running state, LD V5,K next, key 2 pressed. -/
def keyState : State := boot 0xF50A fun s => { s with key := s.key.set 2 true }

/-- A blocked state. -/
def blockedState (seen : Bool) : State := { State.reset with waiting := true, kp := seen, wx := 5#4, lastKey := 7#4 }

/-- A running state with a sprite at 0x20C and the draw of V-DP-6 next. -/
def drawState : State := boot 0xD012 fun s => regs [(0, 60), (1, 31)] (bytesAt 0x20C#16 [0xFF, 0x81] s)

theorem witness_OpcodeMapSelectsHandler :
    (⟨"SHL Vx", 0x800E#16, 0xF00F#16⟩ ∈ opcodeTable false ∧
      OpcodeRow.selects ⟨"SHL Vx", 0x800E#16, 0xF00F#16⟩ 0x8ABE#16 = true) ∧
    ∀ row ∈ opcodeTable false, row.selects 0x5123#16 = false := by decide
theorem witness_DecodeEncodeRoundTrip :
    (Instr.ret 0x0E#8).wf true = true ∧ (Instr.ret 0x12#8).wf false = true := by decide
theorem witness_EncodeDecodeRoundTrip :
    decode true 0x00EE#16 = .handler (.ret 0x0E#8) ∧ decode false 0x812E#16 = .handler (.shl 1#4 2#4) := by decide
/-- A byte written past the top of memory: read back at its address modulo 4096, its neighbours as before. -/
theorem witness_EveryAccessIsMaskedByteByByte :
    0xFFF % 4096 = 0x1FFF % 4096 ∧ 0xFFE % 4096 ≠ 0x1FFF % 4096 ∧ 0x1000 % 4096 ≠ 0x1FFF % 4096 := by decide
theorem witness_CallPushesOrOverflows : callState.stack.length = 15 ∧ fullState.stack.length = 16 := by decide
theorem witness_RetPopsOrUnderflows :
    callState.stack = List.replicate 14 0x300#16 ++ [0x300#16] ∧ [0x204#16] = [] ++ [0x204#16] ∧
    State.reset.stack = [] := by decide
theorem witness_CallThenRetReturnsPastTheCall :
    callState.Running ∧
    decode Config.zeroGroupStrict (callState.mem.readWord callState.pc.toNat) = .handler (.call 0x210#12) ∧
    callState.stack.length < 16 ∧
    decode Config.zeroGroupStrict (callState.mem.readWord (0x210#12).toNat) = .handler (.ret 0x0E#8) :=
  ⟨⟨rfl, rfl⟩, by decide, by decide, by decide⟩
/-- The bytes on either side of the three stored at 0xFFE, which wrap to 0x000. -/
theorem witness_BcdStoresThreeDigits :
    (∀ k < 3, (0xFFE + k) % 4096 ≠ 0xFFD % 4096) ∧ ∀ k < 3, (0xFFE + k) % 4096 ≠ 1 % 4096 := by decide
/-- The bytes on either side of the 16 stored at 0x300, and the last register. -/
theorem witness_RegisterDumpStoresV0ToVx :
    (∀ k ≤ (15#4).toNat, (0x300 + k) % 4096 ≠ 0x2FF % 4096) ∧ (∀ k ≤ (15#4).toNat, (0x300 + k) % 4096 ≠ 0x310 % 4096) ∧
    (15#4).toNat ≤ (15#4).toNat := by decide
theorem witness_DumpThenLoadRestoresRegisters :
    ∃ t u, exec (.storeRegs 15#4) drawState = .next t ∧
      exec (.loadRegs 15#4) { t with v := Vector.replicate 16 0xAA#8 } = .next u ∧ (15#4).toNat ≤ (15#4).toNat :=
  ⟨_, _, rfl, rfl, Nat.le_refl _⟩
/-- Covered: row 0, column 60, by the wrapped second sprite row. Not covered: its right neighbour. -/
theorem witness_DrwInvertsCoveredPixels :
    SpriteCovers drawState 60 31 2 0 60 ∧ ¬ SpriteCovers drawState 60 31 2 0 61 ∧ ¬ SpriteCovers drawState 60 31 0 0 60 := by
  unfold SpriteCovers
  decide +kernel
theorem witness_DrawTwiceRestoresTheDisplay :
    (0#4 ≠ 0xF#4 ∧ 1#4 ≠ 0xF#4) ∧
    ∃ t u, exec (.drw 0#4 1#4 2#4) drawState = .next t ∧ exec (.drw 0#4 1#4 2#4) t = .next u :=
  ⟨by decide, _, _, rfl, rfl⟩
/-- A blocked tick, a faulting tick, a plain one, and the two that write a timer. -/
theorem witness_TimersFallOnlyInRunningTicks :
    (∃ t, step (blockedState true) = .next t ∧ ¬ (blockedState true).Running) ∧
    (∃ t, step fullState = .next t ∧ t.fault ≠ none) ∧
    (∃ t, step (boot 0x6000) = .next t ∧ (boot 0x6000).Running ∧ t.fault = none ∧
      decode Config.zeroGroupStrict (fetch (boot 0x6000)) = .handler (.ldImm 0#4 0#8)) ∧
    (∃ t, step (boot 0xF015) = .next t ∧ (boot 0xF015).Running ∧ t.fault = none ∧
      decode Config.zeroGroupStrict (fetch (boot 0xF015)) = .handler (.ldDtVx 0#4)) ∧
    ∃ t, step (boot 0xF318) = .next t ∧ (boot 0xF318).Running ∧ t.fault = none ∧
      decode Config.zeroGroupStrict (fetch (boot 0xF318)) = .handler (.ldStVx 3#4) :=
  ⟨⟨_, rfl, fun h => absurd h.2 (by decide)⟩, ⟨haltedState, rfl, by decide⟩,
    ⟨_, rfl, ⟨rfl, rfl⟩, rfl, by decide⟩, ⟨_, rfl, ⟨rfl, rfl⟩, rfl, by decide⟩, ⟨_, rfl, ⟨rfl, rfl⟩, rfl, by decide⟩⟩
theorem witness_KeySkips :
    (readReg (regs [(3, 15)] State.reset) 3#4).toNat < 16 ∧ (readReg (regs [(3, 16)] State.reset) 3#4).toNat > 15 := by
  decide
theorem witness_KeyWaitEntryRecordsTarget :
    keyState.Running ∧ decode false (fetch keyState) = .handler (.ldVxK 5#4) ∧
    decode true (fetch keyState) = .handler (.ldVxK 5#4) :=
  ⟨⟨rfl, rfl⟩, by decide, by decide⟩
theorem witness_BlockedTickCommitsOrWaits (seen : Bool) :
    (blockedState seen).fault = none ∧ (blockedState seen).waiting = true ∧ (blockedState seen).kp = seen :=
  ⟨rfl, rfl, rfl⟩
theorem witness_KeyWaitEndsOnAPress :
    keyState.Running ∧ decode Config.zeroGroupStrict (fetch keyState) = .handler (.ldVxK 5#4) ∧
    ∃ u, step keyState = .next u ∧ u.key[2] = true ∧ u.key[15] = false :=
  ⟨⟨rfl, rfl⟩, by decide, _, rfl, by decide, by decide⟩
theorem witness_RegistersFrame :
    ∃ t, exec (.ldImm 0#4 5#8) State.reset = .next t ∧ writesReg 1#4 (.ldImm 0#4 5#8) = false := ⟨_, rfl, rfl⟩
theorem witness_VfIsWrittenOnlyAsTabled :
    (∃ t, exec (.addReg 1#4 2#4) drawState = .next t ∧ setsFlag (.addReg 1#4 2#4) = true) ∧
    ∃ t, exec (.ldImm 0#4 5#8) drawState = .next t ∧ setsFlag (.ldImm 0#4 5#8) = false ∧
      writesReg 0xF#4 (.ldImm 0#4 5#8) = false :=
  ⟨⟨_, rfl, rfl⟩, _, rfl, rfl, rfl⟩
/-- The byte before and the byte after those LD B stores at 0x20C. -/
theorem witness_MemoryFrame :
    ∃ t, exec (.ldB 0#4) drawState = .next t ∧
      (∀ k < bytesStored (.ldB 0#4), (drawState.I.toNat + k) % 4096 ≠ 0x20B % 4096) ∧
      ∀ k < bytesStored (.ldB 0#4), (drawState.I.toNat + k) % 4096 ≠ 0x20F % 4096 :=
  ⟨_, rfl, by decide, by decide⟩
/-- LD Vx,kk is none of the instructions that any clause excepts. -/
theorem witness_OtherStateFrame :
    ∃ t, exec (.ldImm 0#4 5#8) drawState = .next t ∧ (∀ nnn, Instr.ldImm 0#4 5#8 ≠ .ldI nnn) ∧
      (∀ x, Instr.ldImm 0#4 5#8 ≠ .addI x) ∧ (∀ x, Instr.ldImm 0#4 5#8 ≠ .ldF x) ∧
      (∀ nnn, Instr.ldImm 0#4 5#8 ≠ .call nnn) ∧ (∀ ii, Instr.ldImm 0#4 5#8 ≠ .ret ii) ∧
      (∀ x, Instr.ldImm 0#4 5#8 ≠ .ldDtVx x) ∧ (∀ x, Instr.ldImm 0#4 5#8 ≠ .ldStVx x) ∧
      (∀ ii, Instr.ldImm 0#4 5#8 ≠ .cls ii) ∧ (∀ x y n, Instr.ldImm 0#4 5#8 ≠ .drw x y n) ∧
      (∀ x, Instr.ldImm 0#4 5#8 ≠ .ldVxK x) ∧ (∀ x, Instr.ldImm 0#4 5#8 ≠ .skp x) ∧
      (∀ x, Instr.ldImm 0#4 5#8 ≠ .sknp x) ∧ ∀ x kk, Instr.ldImm 0#4 5#8 ≠ .rnd x kk :=
  ⟨_, rfl, nofun, nofun, nofun, nofun, nofun, nofun, nofun, nofun, nofun, nofun, nofun, nofun, nofun⟩
/-- A move, a raise, and the commit. -/
theorem witness_PcMovesAsTabled :
    (callState.fault = none ∧ ∃ t, exec (.call 0x210#12) callState = .next t ∧ t.fault = none) ∧
    (fullState.fault = none ∧ ∃ t, exec (.call 0x300#12) fullState = .next t ∧ t.fault ≠ none) ∧
    (blockedState true).fault = none ∧ (blockedState true).waiting = true ∧ (blockedState true).kp = true :=
  ⟨⟨rfl, _, rfl, rfl⟩, ⟨rfl, haltedState, rfl, by decide⟩, rfl, rfl, rfl⟩
theorem witness_StepRunsTheDecodedInstruction :
    (callState.Running ∧ decodeBytes Config.zeroGroupStrict (callState.mem.read callState.pc.toNat)
        (callState.mem.read (callState.pc.toNat + 1)) = .handler (.call 0x210#12) ∧
      ∃ t, exec (.call 0x210#12) callState = .next t ∧ t.fault = none) ∧
    fullState.Running ∧ decodeBytes Config.zeroGroupStrict (fullState.mem.read fullState.pc.toNat)
        (fullState.mem.read (fullState.pc.toNat + 1)) = .handler (.call 0x300#12) ∧
      ∃ t, exec (.call 0x300#12) fullState = .next t ∧ t.fault ≠ none :=
  ⟨⟨⟨rfl, rfl⟩, by decide, _, rfl, rfl⟩, ⟨rfl, rfl⟩, by decide, haltedState, rfl, by decide⟩
theorem witness_UnknownWordRaises :
    (boot 0x5123).Running ∧ decode Config.zeroGroupStrict (fetch (boot 0x5123)) = .unknownOpcode :=
  ⟨⟨rfl, rfl⟩, by decide⟩
theorem witness_HaltedTicksChangeNothing : haltedState.fault ≠ none := by decide
/-- The four faults, each raised by a tick. -/
theorem witness_FaultingTickSetsOnlyTheLatch :
    ∀ s ∈ [boot 0x5123, fullState, boot 0x00EE, boot 0xE39E (regs [(3, 16)])],
      s.fault = none ∧ ∃ t, step s = .next t ∧ t.fault ≠ none := by
  intro s hs
  simp only [List.mem_cons, List.not_mem_nil, or_false] at hs
  rcases hs with rfl | rfl | rfl | rfl
  · exact ⟨rfl, _, rfl, by decide⟩
  · exact ⟨rfl, haltedState, rfl, by decide⟩
  · exact ⟨rfl, _, rfl, by decide⟩
  · exact ⟨rfl, { boot 0xE39E (regs [(3, 16)]) with
      fault := some { cause := .keyIndexOutOfRange 16#8, pc := 0x200#16, opcode := 0xE39E#16 } },
      rfl, by decide⟩
/-- A running state meets the invariant, and its tick, which raises, answers a next state. -/
theorem witness_StepKeepsInv : fullState.Inv ∧ step fullState = .next haltedState :=
  ⟨⟨by decide, by decide, fun h => absurd rfl h, nofun⟩, rfl⟩
/-- A halted state meets the invariant too. -/
theorem witness_Inv_latched : haltedState.Inv :=
  ⟨by decide, by decide, fun _ => rfl, fun f h => by
    cases h
    exact ⟨rfl, by decide, rfl, 0x300#12, rfl⟩⟩
theorem witness_HostOperationsKeepInv :
    (∃ t, setKey 15 true fullState = .done t) ∧ fullState.fault = none ∧
    ∃ t, loadProgram [0x12, 0x00] fullState = .done t :=
  ⟨⟨_, rfl⟩, rfl, _, rfl⟩
/-- A good session that may load, and its tick; a good one that is halted, and a press. -/
theorem witness_SessionInv :
    (Session.Inv { core := fullState, loadable := true } ∧
      Session.apply { core := fullState, loadable := true } .tick =
        .next { core := haltedState, loadable := false } .done) ∧
    Session.Inv { core := haltedState, loadable := false } ∧
      ∃ ss' reply, Session.apply { core := haltedState, loadable := false } (.setKey 15 true) = .next ss' reply :=
  ⟨⟨⟨witness_StepKeepsInv.1, fun _ => ⟨⟨rfl, rfl⟩, rfl⟩⟩, rfl⟩, ⟨witness_Inv_latched, nofun⟩, _, _, rfl⟩
/-- A reachable session that still allows a load, and one, after a load and a tick, that does not. -/
theorem witness_ReachableSessionsMeetInv :
    (Session.boot.Reachable ∧ Session.boot.loadable = true) ∧
    ∃ ss : Session, ss.Reachable ∧ ss.loadable = false :=
  ⟨⟨.boot, rfl⟩, _, .event .tick (.event (.loadProgram [0x12, 0x00]) .boot rfl) rfl, rfl⟩
theorem witness_FontAfterReset :
    (regs [(0, 15)] State.reset).mem = State.reset.mem ∧ (readReg (regs [(0, 15)] State.reset) 0#4).toNat = 15 := by decide
theorem witness_FaultLatchIsSticky :
    ∃ ss' reply f, haltedState.fault = some f ∧ Event.setKey 1 true ≠ .reset ∧
      Session.apply { core := haltedState, loadable := false } (.setKey 1 true) = .next ss' reply :=
  ⟨_, _, _, rfl, nofun, rfl⟩
/-- The longest program, the empty one, and the bytes on either side of a two-byte one. -/
theorem witness_LoadProgramPlacesBytes :
    (List.replicate 3584 0xAB#8).length ≤ 3584 ∧ ([] : List Byte).length ≤ 3584 ∧
    (0x1FF < 4096 ∧ 0x1FF < 0x200) ∧ 0x202 < 4096 ∧ 0x200 + [0x12#8, 0x00#8].length ≤ 0x202 := by
  refine ⟨by rw [List.length_replicate], ?_⟩
  decide
theorem witness_OversizedLoadIsRejectedWhole :
    (List.replicate 3585 0xAB#8).length > 3584 ∧ Session.boot.loadable = true :=
  ⟨by rw [List.length_replicate]; decide, rfl⟩
theorem witness_LoadOnlyBeforeTheFirstTick :
    (Session.boot.loadable = true ∧ (List.replicate 3584 0xAB#8).length ≤ 3584) ∧
    (∃ ss' reply, Session.boot.apply .tick = .next ss' reply) ∧
    (∃ ss', Session.boot.apply (.loadProgram [0x12, 0x00]) = .next ss' .done) ∧
    (∃ ss' reply, Session.boot.apply .reset = .next ss' reply) ∧
    ∃ ss' reply, Session.apply { core := haltedState, loadable := false } .ackRedraw = .next ss' reply ∧
      Event.ackRedraw ≠ .reset :=
  ⟨⟨rfl, by rw [List.length_replicate]⟩, ⟨_, _, rfl⟩, ⟨_, rfl⟩, ⟨_, _, rfl⟩, _, _, rfl, nofun⟩
/-- The index 16, and at 15 a released and a pressed key. -/
theorem witness_SetKeyRecordsPresses :
    16 > 15 ∧ 15 < 16 ∧ State.reset.key[15] = false ∧ (State.reset.key.set 15 true)[15] = true := by decide
theorem witness_OnlyRndReadsTheRandomInput :
    ∃ t, (∀ x kk, Instr.ldImm 0#4 5#8 ≠ .rnd x kk) ∧ exec (.ldImm 0#4 5#8) State.reset = .next t := ⟨_, nofun, rfl⟩
theorem witness_NoTickReadsRedrawOrTheSoundTimer :
    ∃ t, step (boot 0xF318) = .next t ∧ (boot 0xF318).redraw = true := ⟨_, rfl, rfl⟩
theorem witness_PixelIndices : 31 < 32 ∧ 63 < 64 := by decide

end Sys2Proof.Tests
end

section
/-! SUPPORT. The load, arithmetic, logic and shift family (41_arithmetic_logic.md): the whole effect of an instruction
that writes one register and moves on, and the proofs of the family's obligations. -/

namespace Sys2Proof

/-- The first level of the decoder sends selector 6 to LD Vx,kk with its fields (30_encoding.md R74). -/
theorem decode_of_opField_six (strict : Bool) (w : Word) (h : opField w = 0x6#4) :
    decode strict w = .handler (.ldImm (xField w) (kkField w)) := by
  simp [decode, h]

/-- The word 6xkk. -/
theorem decode_encode_ldImm (strict : Bool) (x : Nibble) (kk : Byte) :
    decode strict (encode (.ldImm x kk)) = .handler (.ldImm x kk) := by
  have hop : opField (encode (.ldImm x kk)) = 0x6#4 := opField_encodeXK 0x6#4 x kk
  rw [decode_of_opField_six strict _ hop, encode, xField_encodeXK, kkField_encodeXK]

end Sys2Proof

namespace Sys2Proof.Machine

/-- The arm of LD Vx,kk (R100). -/
theorem exec_ldImm (x : Nibble) (kk : Byte) (s : State) : exec (.ldImm x kk) s = .next (advance (writeReg x kk s)) := rfl

/-- The registers after one register write and the move of `pc`. -/
theorem readReg_advance_writeReg (s : State) (x r : Nibble) (b : Byte) :
    readReg (advance (writeReg x b s)) r = if r = x then b else readReg s r := by
  simp only [readReg_advance, readReg_writeReg, eq_comm (a := r)]

/-- One register write and the move of `pc` change the registers and `pc` alone. -/
theorem advance_writeReg_frame (s : State) (x : Nibble) (b : Byte) :
    advance (writeReg x b s) = { s with v := (advance (writeReg x b s)).v, pc := s.pc + 2#16 } := rfl

/-- Settles O12: the word by its fields, the effect as one register write and the move of `pc`. -/
theorem loadImmediate : Obligations.LoadImmediate := by
  unfold Obligations.LoadImmediate
  intro strict x kk s
  refine ⟨decode_encode_ldImm strict x kk, advance (writeReg x kk s), exec_ldImm x kk s, fun r => ?_, ?_⟩
  · exact readReg_advance_writeReg s x r kk
  · exact advance_writeReg_frame s x kk

end Sys2Proof.Machine
end

section
/-! SUPPORT. The index and memory transfer family (42_memory_index.md): the word and the arm of LD I,nnn, and the proof
of the family's obligation about it. -/

namespace Sys2Proof

/-- The first level of the decoder sends selector 0xA to LD I,nnn with its address (30_encoding.md R74). -/
theorem decode_of_opField_ten (strict : Bool) (w : Word) (h : opField w = 0xA#4) :
    decode strict w = .handler (.ldI (nnnField w)) := by
  simp [decode, h]

/-- The word Annn. -/
theorem decode_encode_ldI (strict : Bool) (nnn : Addr12) : decode strict (encode (.ldI nnn)) = .handler (.ldI nnn) := by
  have hop : opField (encode (.ldI nnn)) = 0xA#4 := opField_encodeA 0xA#4 nnn
  rw [decode_of_opField_ten strict _ hop, encode, nnnField_encodeA]

end Sys2Proof

namespace Sys2Proof.Machine

/-- The arm of LD I,nnn (R120). -/
theorem exec_ldI (nnn : Addr12) (s : State) : exec (.ldI nnn) s = .next (advance { s with I := zext16Addr nnn }) := rfl

/-- Widening a 12-bit address keeps its value (R72). -/
@[simp] theorem zext16Addr_toNat (nnn : Addr12) : (zext16Addr nnn).toNat = nnn.toNat :=
  BitVec.toNat_setWidth_of_le (by decide)

/-- Writing `I` and the move of `pc` change `I` and `pc` alone. -/
theorem advance_writeI_frame (s : State) (a : Word) :
    advance { s with I := a } = { s with I := (advance { s with I := a }).I, pc := s.pc + 2#16 } := rfl

/-- Settles O18: the word by its fields, the effect as a write of the widened address to `I` and the move of `pc`. -/
theorem loadIndex : Obligations.LoadIndex := by
  unfold Obligations.LoadIndex
  intro strict nnn s
  refine ⟨decode_encode_ldI strict nnn, advance { s with I := zext16Addr nnn }, exec_ldI nnn s, ?_, ?_⟩
  · rw [advance_I, zext16Addr_toNat]
  · exact advance_writeI_frame s (zext16Addr nnn)

end Sys2Proof.Machine
end

section
/-! SUPPORT. The cycle family (47_cycle_step.md): the timer tick, and the proof of the family's obligation about it. -/

namespace Sys2Proof.Machine

/-- The spec's two cases of a count toward 0 (R166): truncated subtraction takes both. -/
theorem countDown_toNat_by_cases (t : Byte) : (countDown t).toNat = if t.toNat > 0 then t.toNat - 1 else 0 := by
  rw [countDown_toNat]
  split
  case isTrue => rfl
  case isFalse hzero => omega

/-- The timer tick changes the two timers alone. -/
theorem timerTick_frame (s : State) : timerTick s = { s with dt := (timerTick s).dt, st := (timerTick s).st } := rfl

/-- Settles O28: each timer is counted down by its own value, and the tick writes nothing else. -/
theorem timerTickCountsTowardZero : Obligations.TimerTickCountsTowardZero := by
  unfold Obligations.TimerTickCountsTowardZero
  intro s
  refine ⟨?_, ?_, timerTick_frame s⟩
  · rw [timerTick_dt, countDown_toNat_by_cases]
  · rw [timerTick_st, countDown_toNat_by_cases]

end Sys2Proof.Machine
end

section
/-! SUPPORT. The host interface family (48_host_interface.md): the bytes outside a sequence of writes, the accepted load,
and the proof of the family's obligation about it. -/

namespace Sys2Proof.Machine

/-- A sequence of writes leaves every byte outside it alone (20_memory.md R51, R54). -/
theorem read_writeBytes_outside (m : Memory) (addr a : Nat) (bytes : List Byte)
    (h : ∀ k < bytes.length, (addr + k) % 4096 ≠ a % 4096) : (m.writeBytes addr bytes).read a = m.read a := by
  induction bytes generalizing m addr with
  | nil => rfl
  | cons b rest ih =>
    have hfirst : addr % 4096 ≠ a % 4096 := h 0 (Nat.zero_lt_succ _)
    have hrest : ∀ k < rest.length, (addr + 1 + k) % 4096 ≠ a % 4096 := fun k hk => by
      rw [Nat.add_assoc, Nat.add_comm 1 k]
      exact h (k + 1) (Nat.succ_lt_succ hk)
    rw [Memory.writeBytes, ih _ _ hrest, read_write, if_neg hfirst]

/-- A program that fits is loaded (R182). -/
theorem loadProgram_of_length_le {bytes : List Byte} (h : bytes.length ≤ 3584) (s : State) :
    loadProgram bytes s = .done { s with mem := s.mem.writeBytes 0x200 bytes } := if_pos h

/-- Settles O54: the program region ends at the end of memory, so the load wraps onto no byte outside it; the state is
the old one with the new memory, which for an empty program is the old memory. -/
theorem loadProgramPlacesBytes : Obligations.LoadProgramPlacesBytes := by
  unfold Obligations.LoadProgramPlacesBytes
  intro bytes s hlen
  refine ⟨_, loadProgram_of_length_le hlen s, fun i hi => ?placed, fun a ha hout => ?outside, ?empty, rfl⟩
  case placed => exact read_writeBytes_inside s.mem 0x200 i bytes (hlen.trans (by decide)) hi
  case outside => exact read_writeBytes_outside s.mem 0x200 a bytes fun k hk => by omega
  case empty =>
    rintro rfl
    rfl

end Sys2Proof.Machine
end

section
/-! SUPPORT. The encoding family (30_encoding.md): a word from the fields that select its row, the round trips between
words and instructions, the opcode map, and the proofs of the family's obligations. -/

namespace Sys2Proof

/-! ### A word from the fields that select its row -/

theorem encodeA_of_op {w : Word} {op : Nibble} (hop : opField w = op) : encodeA op (nnnField w) = w := by
  rw [← hop, encodeA_fields]

theorem encodeXK_of_op {w : Word} {op : Nibble} (hop : opField w = op) : encodeXK op (xField w) (kkField w) = w := by
  rw [← hop, encodeXK_fields]

theorem encodeXYN_of_op {w : Word} {op : Nibble} (hop : opField w = op) :
    encodeXY op (xField w) (yField w) (nField w) = w := by
  rw [← hop, encodeXY_fields]

theorem encodeXY_of_op_n {w : Word} {op n : Nibble} (hop : opField w = op) (hn : nField w = n) :
    encodeXY op (xField w) (yField w) n = w := by
  rw [← hn, encodeXYN_of_op hop]

theorem encodeXS_of_op_kk {w : Word} {op : Nibble} {sel : Byte} (hop : opField w = op) (hkk : kkField w = sel) :
    encodeXS op (xField w) sel = w := by
  rw [← hop, ← hkk, encodeXS_fields]

theorem encodeZ_of_op_n {w : Word} {n : Nibble} (hop : opField w = 0x0#4) (hn : nField w = n) :
    encodeZ (iiField w) n = w := by
  rw [← hn, encodeZ_fields w hop]

/-! ### The first level of the decoder (R74), with `decode_of_opField_six` and `decode_of_opField_ten` above -/

theorem decode_of_opField_zero (strict : Bool) (w : Word) (h : opField w = 0x0#4) :
    decode strict w = decodeGroup0 strict w := by simp [decode, h]

theorem decode_of_opField_one (strict : Bool) (w : Word) (h : opField w = 0x1#4) :
    decode strict w = .handler (.jp (nnnField w)) := by simp [decode, h]

theorem decode_of_opField_two (strict : Bool) (w : Word) (h : opField w = 0x2#4) :
    decode strict w = .handler (.call (nnnField w)) := by simp [decode, h]

theorem decode_of_opField_three (strict : Bool) (w : Word) (h : opField w = 0x3#4) :
    decode strict w = .handler (.seImm (xField w) (kkField w)) := by simp [decode, h]

theorem decode_of_opField_four (strict : Bool) (w : Word) (h : opField w = 0x4#4) :
    decode strict w = .handler (.sneImm (xField w) (kkField w)) := by simp [decode, h]

theorem decode_of_opField_five (strict : Bool) (w : Word) (h : opField w = 0x5#4) :
    decode strict w = decodeGroup5 w := by simp [decode, h]

theorem decode_of_opField_seven (strict : Bool) (w : Word) (h : opField w = 0x7#4) :
    decode strict w = .handler (.addImm (xField w) (kkField w)) := by simp [decode, h]

theorem decode_of_opField_eight (strict : Bool) (w : Word) (h : opField w = 0x8#4) :
    decode strict w = decodeGroup8 w := by simp [decode, h]

theorem decode_of_opField_nine (strict : Bool) (w : Word) (h : opField w = 0x9#4) :
    decode strict w = decodeGroup9 w := by simp [decode, h]

theorem decode_of_opField_eleven (strict : Bool) (w : Word) (h : opField w = 0xB#4) :
    decode strict w = .handler (.jpV0 (nnnField w)) := by simp [decode, h]

theorem decode_of_opField_twelve (strict : Bool) (w : Word) (h : opField w = 0xC#4) :
    decode strict w = .handler (.rnd (xField w) (kkField w)) := by simp [decode, h]

theorem decode_of_opField_thirteen (strict : Bool) (w : Word) (h : opField w = 0xD#4) :
    decode strict w = .handler (.drw (xField w) (yField w) (nField w)) := by simp [decode, h]

theorem decode_of_opField_fourteen (strict : Bool) (w : Word) (h : opField w = 0xE#4) :
    decode strict w = decodeGroupE w := by simp [decode, h]

theorem decode_of_opField_fifteen (strict : Bool) (w : Word) (h : opField w = 0xF#4) :
    decode strict w = decodeGroupF w := by simp [decode, h]

/-- The sixteen primary selectors. -/
theorem opField_cases (w : Word) :
    (opField w = 0x0#4 ∨ opField w = 0x1#4 ∨ opField w = 0x2#4 ∨ opField w = 0x3#4) ∨
      (opField w = 0x4#4 ∨ opField w = 0x5#4 ∨ opField w = 0x6#4 ∨ opField w = 0x7#4) ∨
      (opField w = 0x8#4 ∨ opField w = 0x9#4 ∨ opField w = 0xA#4 ∨ opField w = 0xB#4) ∨
      opField w = 0xC#4 ∨ opField w = 0xD#4 ∨ opField w = 0xE#4 ∨ opField w = 0xF#4 := by
  generalize opField w = op
  revert op
  decide

/-! ### The round trips -/

/-- Settles O2: the fields of the encoded word lead the decoder, branch by branch, back to the instruction; only CLS and
RET have a further check, which well-formedness answers. -/
theorem decodeEncodeRoundTrip : Obligations.DecodeEncodeRoundTrip := by
  unfold Obligations.DecodeEncodeRoundTrip
  intro strict i hwf
  cases i
  case cls ii => cases strict <;> simp_all [Instr.wf, encode, decode, decodeGroup0]
  case ret ii => cases strict <;> simp_all [Instr.wf, encode, decode, decodeGroup0]
  case seReg => simp [encode, decode, decodeGroup5]
  case sneReg => simp [encode, decode, decodeGroup9]
  case skp => simp [encode, decode, decodeGroupE]
  case sknp => simp [encode, decode, decodeGroupE]
  case ldReg | orReg | andReg | xorReg | addReg | subReg | shr | subnReg | shl => simp [encode, decode, decodeGroup8]
  case ldVxDt | ldVxK | ldDtVx | ldStVx | addI | ldF | ldB | storeRegs | loadRegs => simp [encode, decode, decodeGroupF]
  all_goals simp [encode, decode]

/-- Group 0x0 answers an instruction of the word, the ignored byte kept (R76). -/
theorem decodeGroup0_sound {strict : Bool} {w : Word} {i : Instr} (hop : opField w = 0x0#4)
    (h : decodeGroup0 strict w = .handler i) : encode i = w ∧ i.wf strict = true := by
  unfold decodeGroup0 at h
  split_ifs at h with hstrict hn hn
  all_goals
    cases h
    exact ⟨encodeZ_of_op_n hop hn, by cases strict <;> simp_all [Instr.wf]⟩

/-- Group 0x5 (R77). -/
theorem decodeGroup5_sound {strict : Bool} {w : Word} {i : Instr} (hop : opField w = 0x5#4)
    (h : decodeGroup5 w = .handler i) : encode i = w ∧ i.wf strict = true := by
  unfold decodeGroup5 at h
  split_ifs at h with hn
  cases h
  exact ⟨encodeXY_of_op_n hop hn, rfl⟩

/-- Group 0x8 (R78). -/
theorem decodeGroup8_sound {strict : Bool} {w : Word} {i : Instr} (hop : opField w = 0x8#4)
    (h : decodeGroup8 w = .handler i) : encode i = w ∧ i.wf strict = true := by
  unfold decodeGroup8 at h
  split_ifs at h with hn hn hn hn hn hn hn hn hn
  all_goals
    cases h
    exact ⟨encodeXY_of_op_n hop hn, rfl⟩

/-- Group 0x9 (R77). -/
theorem decodeGroup9_sound {strict : Bool} {w : Word} {i : Instr} (hop : opField w = 0x9#4)
    (h : decodeGroup9 w = .handler i) : encode i = w ∧ i.wf strict = true := by
  unfold decodeGroup9 at h
  split_ifs at h with hn
  cases h
  exact ⟨encodeXY_of_op_n hop hn, rfl⟩

/-- Group 0xE (R79). -/
theorem decodeGroupE_sound {strict : Bool} {w : Word} {i : Instr} (hop : opField w = 0xE#4)
    (h : decodeGroupE w = .handler i) : encode i = w ∧ i.wf strict = true := by
  unfold decodeGroupE at h
  split_ifs at h with hkk hkk
  all_goals
    cases h
    exact ⟨encodeXS_of_op_kk hop hkk, rfl⟩

/-- Group 0xF (R80). -/
theorem decodeGroupF_sound {strict : Bool} {w : Word} {i : Instr} (hop : opField w = 0xF#4)
    (h : decodeGroupF w = .handler i) : encode i = w ∧ i.wf strict = true := by
  unfold decodeGroupF at h
  split_ifs at h with hkk hkk hkk hkk hkk hkk hkk hkk hkk
  all_goals
    cases h
    exact ⟨encodeXS_of_op_kk hop hkk, rfl⟩

/-- Settles O3: along the branch that answers, the tested fields and the fields put into the instruction are the whole
word. -/
theorem encodeDecodeRoundTrip : Obligations.EncodeDecodeRoundTrip := by
  unfold Obligations.EncodeDecodeRoundTrip
  intro strict w i h
  rcases opField_cases w with (op | op | op | op) | (op | op | op | op) | (op | op | op | op) | op | op | op | op
  · exact decodeGroup0_sound op ((decode_of_opField_zero strict w op).symm.trans h)
  · cases (decode_of_opField_one strict w op).symm.trans h
    exact ⟨encodeA_of_op op, rfl⟩
  · cases (decode_of_opField_two strict w op).symm.trans h
    exact ⟨encodeA_of_op op, rfl⟩
  · cases (decode_of_opField_three strict w op).symm.trans h
    exact ⟨encodeXK_of_op op, rfl⟩
  · cases (decode_of_opField_four strict w op).symm.trans h
    exact ⟨encodeXK_of_op op, rfl⟩
  · exact decodeGroup5_sound op ((decode_of_opField_five strict w op).symm.trans h)
  · cases (decode_of_opField_six strict w op).symm.trans h
    exact ⟨encodeXK_of_op op, rfl⟩
  · cases (decode_of_opField_seven strict w op).symm.trans h
    exact ⟨encodeXK_of_op op, rfl⟩
  · exact decodeGroup8_sound op ((decode_of_opField_eight strict w op).symm.trans h)
  · exact decodeGroup9_sound op ((decode_of_opField_nine strict w op).symm.trans h)
  · cases (decode_of_opField_ten strict w op).symm.trans h
    exact ⟨encodeA_of_op op, rfl⟩
  · cases (decode_of_opField_eleven strict w op).symm.trans h
    exact ⟨encodeA_of_op op, rfl⟩
  · cases (decode_of_opField_twelve strict w op).symm.trans h
    exact ⟨encodeXK_of_op op, rfl⟩
  · cases (decode_of_opField_thirteen strict w op).symm.trans h
    exact ⟨encodeXYN_of_op op, rfl⟩
  · exact decodeGroupE_sound op ((decode_of_opField_fourteen strict w op).symm.trans h)
  · exact decodeGroupF_sound op ((decode_of_opField_fifteen strict w op).symm.trans h)

end Sys2Proof
end

section
/-! SUPPORT. The opcode map R81 and the unknown words R82 of 30_encoding.md: what a row's mask tests, and the proofs of
the two obligations. -/

namespace Sys2Proof

/-! ### What a mask tests -/

theorem opField_of_and {w mask v : Word} (h : w &&& mask = v) (hm : opField mask = 0xF#4) : opField w = opField v := by
  rw [← h, opField, opField, BitVec.extractLsb'_and, ← opField, ← opField, hm]
  exact BitVec.and_allOnes.symm

theorem nField_of_and {w mask v : Word} (h : w &&& mask = v) (hm : nField mask = 0xF#4) : nField w = nField v := by
  rw [← h, nField, nField, BitVec.extractLsb'_and, ← nField, ← nField, hm]
  exact BitVec.and_allOnes.symm

theorem kkField_of_and {w mask v : Word} (h : w &&& mask = v) (hm : kkField mask = 0xFF#8) :
    kkField w = kkField v := by
  rw [← h, kkField, kkField, BitVec.extractLsb'_and, ← kkField, ← kkField, hm]
  exact BitVec.and_allOnes.symm

theorem encodeA_of_and {w v : Word} {op : Nibble} (h : w &&& 0xF000#16 = v) (hop : opField v = op) :
    encodeA op (nnnField w) = w :=
  encodeA_of_op ((opField_of_and h rfl).trans hop)

theorem encodeXK_of_and {w v : Word} {op : Nibble} (h : w &&& 0xF000#16 = v) (hop : opField v = op) :
    encodeXK op (xField w) (kkField w) = w :=
  encodeXK_of_op ((opField_of_and h rfl).trans hop)

theorem encodeXYN_of_and {w v : Word} {op : Nibble} (h : w &&& 0xF000#16 = v) (hop : opField v = op) :
    encodeXY op (xField w) (yField w) (nField w) = w :=
  encodeXYN_of_op ((opField_of_and h rfl).trans hop)

theorem encodeXY_of_and {w v : Word} {op n : Nibble} (h : w &&& 0xF00F#16 = v) (hop : opField v = op)
    (hn : nField v = n) : encodeXY op (xField w) (yField w) n = w :=
  encodeXY_of_op_n ((opField_of_and h rfl).trans hop) ((nField_of_and h rfl).trans hn)

theorem encodeXS_of_and {w v : Word} {op : Nibble} {sel : Byte} (h : w &&& 0xF0FF#16 = v) (hop : opField v = op)
    (hsel : kkField v = sel) : encodeXS op (xField w) sel = w :=
  encodeXS_of_op_kk ((opField_of_and h rfl).trans hop) ((kkField_of_and h rfl).trans hsel)

theorem encodeZ_of_and {w v : Word} {n : Nibble} (h : w &&& 0xF00F#16 = v) (hop : opField v = 0x0#4)
    (hn : nField v = n) : encodeZ (iiField w) n = w :=
  encodeZ_of_op_n ((opField_of_and h rfl).trans hop) ((nField_of_and h rfl).trans hn)

/-! ### The map's rows and the instructions -/

/-- The word is that of a well-formed instruction with the row's mnemonic. -/
def HoldsInstrOf (strict : Bool) (row : OpcodeRow) (w : Word) : Prop :=
  ∃ i : Instr, encode i = w ∧ i.wf strict = true ∧ i.mnemonic = row.mnemonic

theorem OpcodeRow.and_of_selects {row : OpcodeRow} {w : Word} (h : row.selects w = true) : w &&& row.mask = row.value :=
  eq_of_beq h

theorem holdsInstrOf_of_selects_zero {strict : Bool} {row : OpcodeRow} {w : Word} (hrow : row ∈ opcodeRowsZero strict)
    (h : row.selects w = true) : HoldsInstrOf strict row w := by
  have hand := row.and_of_selects h
  cases strict
  case false =>
    simp only [opcodeRowsZero, Bool.false_eq_true, if_false, List.mem_cons, List.not_mem_nil, or_false] at hrow
    rcases hrow with rfl | rfl
    · exact ⟨.cls (iiField w), encodeZ_of_and hand rfl rfl, rfl, rfl⟩
    · exact ⟨.ret (iiField w), encodeZ_of_and hand rfl rfl, rfl, rfl⟩
  case true =>
    simp only [opcodeRowsZero, if_true, List.mem_cons, List.not_mem_nil, or_false] at hrow
    have hall : w &&& 0xFFFF#16 = w := BitVec.and_allOnes
    rcases hrow with rfl | rfl
    · exact ⟨.cls 0x0E#8, hand.symm.trans hall, rfl, rfl⟩
    · exact ⟨.ret 0x0E#8, hand.symm.trans hall, rfl, rfl⟩

theorem holdsInstrOf_of_selects_low {strict : Bool} {row : OpcodeRow} {w : Word} (hrow : row ∈ opcodeRowsLow)
    (h : row.selects w = true) : HoldsInstrOf strict row w := by
  have hand := row.and_of_selects h
  simp only [opcodeRowsLow, List.mem_cons, List.not_mem_nil, or_false] at hrow
  rcases hrow with rfl | rfl | rfl | rfl | rfl | rfl | rfl
  · exact ⟨.jp (nnnField w), encodeA_of_and hand rfl, rfl, rfl⟩
  · exact ⟨.call (nnnField w), encodeA_of_and hand rfl, rfl, rfl⟩
  · exact ⟨.seImm (xField w) (kkField w), encodeXK_of_and hand rfl, rfl, rfl⟩
  · exact ⟨.sneImm (xField w) (kkField w), encodeXK_of_and hand rfl, rfl, rfl⟩
  · exact ⟨.seReg (xField w) (yField w), encodeXY_of_and hand rfl rfl, rfl, rfl⟩
  · exact ⟨.ldImm (xField w) (kkField w), encodeXK_of_and hand rfl, rfl, rfl⟩
  · exact ⟨.addImm (xField w) (kkField w), encodeXK_of_and hand rfl, rfl, rfl⟩

theorem holdsInstrOf_of_selects_eight {strict : Bool} {row : OpcodeRow} {w : Word} (hrow : row ∈ opcodeRows8)
    (h : row.selects w = true) : HoldsInstrOf strict row w := by
  have hand := row.and_of_selects h
  simp only [opcodeRows8, List.mem_cons, List.not_mem_nil, or_false] at hrow
  rcases hrow with rfl | rfl | rfl | rfl | rfl | rfl | rfl | rfl | rfl
  · exact ⟨.ldReg (xField w) (yField w), encodeXY_of_and hand rfl rfl, rfl, rfl⟩
  · exact ⟨.orReg (xField w) (yField w), encodeXY_of_and hand rfl rfl, rfl, rfl⟩
  · exact ⟨.andReg (xField w) (yField w), encodeXY_of_and hand rfl rfl, rfl, rfl⟩
  · exact ⟨.xorReg (xField w) (yField w), encodeXY_of_and hand rfl rfl, rfl, rfl⟩
  · exact ⟨.addReg (xField w) (yField w), encodeXY_of_and hand rfl rfl, rfl, rfl⟩
  · exact ⟨.subReg (xField w) (yField w), encodeXY_of_and hand rfl rfl, rfl, rfl⟩
  · exact ⟨.shr (xField w) (yField w), encodeXY_of_and hand rfl rfl, rfl, rfl⟩
  · exact ⟨.subnReg (xField w) (yField w), encodeXY_of_and hand rfl rfl, rfl, rfl⟩
  · exact ⟨.shl (xField w) (yField w), encodeXY_of_and hand rfl rfl, rfl, rfl⟩

theorem holdsInstrOf_of_selects_high {strict : Bool} {row : OpcodeRow} {w : Word} (hrow : row ∈ opcodeRowsHigh)
    (h : row.selects w = true) : HoldsInstrOf strict row w := by
  have hand := row.and_of_selects h
  simp only [opcodeRowsHigh, List.mem_cons, List.not_mem_nil, or_false] at hrow
  rcases hrow with rfl | rfl | rfl | rfl | rfl | rfl | rfl
  · exact ⟨.sneReg (xField w) (yField w), encodeXY_of_and hand rfl rfl, rfl, rfl⟩
  · exact ⟨.ldI (nnnField w), encodeA_of_and hand rfl, rfl, rfl⟩
  · exact ⟨.jpV0 (nnnField w), encodeA_of_and hand rfl, rfl, rfl⟩
  · exact ⟨.rnd (xField w) (kkField w), encodeXK_of_and hand rfl, rfl, rfl⟩
  · exact ⟨.drw (xField w) (yField w) (nField w), encodeXYN_of_and hand rfl, rfl, rfl⟩
  · exact ⟨.skp (xField w), encodeXS_of_and hand rfl rfl, rfl, rfl⟩
  · exact ⟨.sknp (xField w), encodeXS_of_and hand rfl rfl, rfl, rfl⟩

theorem holdsInstrOf_of_selects_fifteen {strict : Bool} {row : OpcodeRow} {w : Word} (hrow : row ∈ opcodeRowsF)
    (h : row.selects w = true) : HoldsInstrOf strict row w := by
  have hand := row.and_of_selects h
  simp only [opcodeRowsF, List.mem_cons, List.not_mem_nil, or_false] at hrow
  rcases hrow with rfl | rfl | rfl | rfl | rfl | rfl | rfl | rfl | rfl
  · exact ⟨.ldVxDt (xField w), encodeXS_of_and hand rfl rfl, rfl, rfl⟩
  · exact ⟨.ldVxK (xField w), encodeXS_of_and hand rfl rfl, rfl, rfl⟩
  · exact ⟨.ldDtVx (xField w), encodeXS_of_and hand rfl rfl, rfl, rfl⟩
  · exact ⟨.ldStVx (xField w), encodeXS_of_and hand rfl rfl, rfl, rfl⟩
  · exact ⟨.addI (xField w), encodeXS_of_and hand rfl rfl, rfl, rfl⟩
  · exact ⟨.ldF (xField w), encodeXS_of_and hand rfl rfl, rfl, rfl⟩
  · exact ⟨.ldB (xField w), encodeXS_of_and hand rfl rfl, rfl, rfl⟩
  · exact ⟨.storeRegs (xField w), encodeXS_of_and hand rfl rfl, rfl, rfl⟩
  · exact ⟨.loadRegs (xField w), encodeXS_of_and hand rfl rfl, rfl, rfl⟩

/-- A word that selects a row decodes to the row's handler. -/
theorem decode_of_selects {strict : Bool} {row : OpcodeRow} {w : Word} (hrow : row ∈ opcodeTable strict)
    (h : row.selects w = true) : ∃ i, decode strict w = .handler i ∧ i.mnemonic = row.mnemonic := by
  have hholds : HoldsInstrOf strict row w := by
    simp only [opcodeTable, List.mem_append] at hrow
    rcases hrow with (((hrow | hrow) | hrow) | hrow) | hrow
    · exact holdsInstrOf_of_selects_zero hrow h
    · exact holdsInstrOf_of_selects_low hrow h
    · exact holdsInstrOf_of_selects_eight hrow h
    · exact holdsInstrOf_of_selects_high hrow h
    · exact holdsInstrOf_of_selects_fifteen hrow h
  obtain ⟨i, rfl, hwf, hmn⟩ := hholds
  exact ⟨i, decodeEncodeRoundTrip strict i hwf, hmn⟩

/-- The default map holds every instruction's word, in a row of its mnemonic. -/
theorem matchesRow_default (i : Instr) : Laws.MatchesRow.Statement i := by
  cases i with
  | cls ii => exact Laws.MatchesRow.cls ii
  | ret ii => exact Laws.MatchesRow.ret ii
  | jp nnn => exact Laws.MatchesRow.jp nnn
  | call nnn => exact Laws.MatchesRow.call nnn
  | seImm x kk => exact Laws.MatchesRow.seImm x kk
  | sneImm x kk => exact Laws.MatchesRow.sneImm x kk
  | seReg x y => exact Laws.MatchesRow.seReg x y
  | ldImm x kk => exact Laws.MatchesRow.ldImm x kk
  | addImm x kk => exact Laws.MatchesRow.addImm x kk
  | ldReg x y => exact Laws.MatchesRow.ldReg x y
  | orReg x y => exact Laws.MatchesRow.orReg x y
  | andReg x y => exact Laws.MatchesRow.andReg x y
  | xorReg x y => exact Laws.MatchesRow.xorReg x y
  | addReg x y => exact Laws.MatchesRow.addReg x y
  | subReg x y => exact Laws.MatchesRow.subReg x y
  | shr x y => exact Laws.MatchesRow.shr x y
  | subnReg x y => exact Laws.MatchesRow.subnReg x y
  | shl x y => exact Laws.MatchesRow.shl x y
  | sneReg x y => exact Laws.MatchesRow.sneReg x y
  | ldI nnn => exact Laws.MatchesRow.ldI nnn
  | jpV0 nnn => exact Laws.MatchesRow.jpV0 nnn
  | rnd x kk => exact Laws.MatchesRow.rnd x kk
  | drw x y n => exact Laws.MatchesRow.drw x y n
  | skp x => exact Laws.MatchesRow.skp x
  | sknp x => exact Laws.MatchesRow.sknp x
  | ldVxDt x => exact Laws.MatchesRow.ldVxDt x
  | ldVxK x => exact Laws.MatchesRow.ldVxK x
  | ldDtVx x => exact Laws.MatchesRow.ldDtVx x
  | ldStVx x => exact Laws.MatchesRow.ldStVx x
  | addI x => exact Laws.MatchesRow.addI x
  | ldF x => exact Laws.MatchesRow.ldF x
  | ldB x => exact Laws.MatchesRow.ldB x
  | storeRegs x => exact Laws.MatchesRow.storeRegs x
  | loadRegs x => exact Laws.MatchesRow.loadRegs x

/-- The two maps differ in the first two rows alone, those of CLS and RET. -/
theorem mem_opcodeTable_true_of_false {row : OpcodeRow} (hrow : row ∈ opcodeTable false) (hcls : row.mnemonic ≠ "CLS")
    (hret : row.mnemonic ≠ "RET") : row ∈ opcodeTable true := by
  simp only [opcodeTable, List.mem_append] at hrow ⊢
  rcases hrow with (((hzero | h) | h) | h) | h
  · simp only [opcodeRowsZero, Bool.false_eq_true, if_false, List.mem_cons, List.not_mem_nil, or_false] at hzero
    rcases hzero with rfl | rfl
    · exact absurd rfl hcls
    · exact absurd rfl hret
  · exact .inl (.inl (.inl (.inr h)))
  · exact .inl (.inl (.inr h))
  · exact .inl (.inr h)
  · exact .inr h

/-- Either map holds every well-formed instruction's word, in a row of its mnemonic. -/
theorem exists_row_selects_encode {strict : Bool} {i : Instr} (hwf : i.wf strict = true) :
    ∃ row ∈ opcodeTable strict, row.mnemonic = i.mnemonic ∧ row.selects (encode i) = true := by
  obtain ⟨row, hrow, hmn, hand⟩ := matchesRow_default i
  have hsel : row.selects (encode i) = true := beq_iff_eq.mpr hand
  cases strict
  case false => exact ⟨row, hrow, hmn, hsel⟩
  case true =>
    cases i
    case cls ii =>
      obtain rfl : ii = 0x0E#8 := by simpa [Instr.wf] using hwf
      exact ⟨⟨"CLS", 0x00E0#16, 0xFFFF#16⟩, .head _, rfl, rfl⟩
    case ret ii =>
      obtain rfl : ii = 0x0E#8 := by simpa [Instr.wf] using hwf
      exact ⟨⟨"RET", 0x00EE#16, 0xFFFF#16⟩, .tail _ (.head _), rfl, rfl⟩
    all_goals
      exact ⟨row, mem_opcodeTable_true_of_false hrow (by simp [hmn, Instr.mnemonic]) (by simp [hmn, Instr.mnemonic]),
        hmn, hsel⟩

/-- No two rows of a map have the same mnemonic. -/
theorem opcodeTable_mnemonics_nodup (strict : Bool) : ((opcodeTable strict).map OpcodeRow.mnemonic).Nodup := by
  cases strict <;> decide

theorem eq_of_mnemonic_eq {strict : Bool} {row row' : OpcodeRow} (hrow : row ∈ opcodeTable strict)
    (hrow' : row' ∈ opcodeTable strict) (h : row.mnemonic = row'.mnemonic) : row = row' :=
  List.inj_on_of_nodup_map (opcodeTable_mnemonics_nodup strict) hrow hrow' h

/-- A word selects every row whose handler it decodes to: the row of its instruction is the only one of the mnemonic. -/
theorem selects_of_decode {strict : Bool} {row : OpcodeRow} {w : Word} {i : Instr} (hrow : row ∈ opcodeTable strict)
    (hdec : decode strict w = .handler i) (hmn : i.mnemonic = row.mnemonic) : row.selects w = true := by
  obtain ⟨rfl, hwf⟩ := encodeDecodeRoundTrip strict w i hdec
  obtain ⟨row', hrow', hmn', hsel⟩ := exists_row_selects_encode hwf
  rwa [eq_of_mnemonic_eq hrow hrow' (hmn.symm.trans hmn'.symm)]

/-- Two selected rows have the mnemonic of the one instruction, so they are one. -/
theorem eq_of_selects {strict : Bool} {row row' : OpcodeRow} {w : Word} (hrow : row ∈ opcodeTable strict)
    (hrow' : row' ∈ opcodeTable strict) (h : row.selects w = true) (h' : row'.selects w = true) : row = row' := by
  obtain ⟨i, hdec, hmn⟩ := decode_of_selects hrow h
  obtain ⟨i', hdec', hmn'⟩ := decode_of_selects hrow' h'
  cases hdec.symm.trans hdec'
  exact eq_of_mnemonic_eq hrow hrow' (hmn.symm.trans hmn')

/-- Settles O1: a selected row gives an instruction of its mnemonic, and an instruction gives the one row of its
mnemonic, by the two round trips. -/
theorem opcodeMapSelectsHandler : Obligations.OpcodeMapSelectsHandler := by
  unfold Obligations.OpcodeMapSelectsHandler
  intro strict w
  refine ⟨fun row hrow => ⟨decode_of_selects hrow, fun ⟨i, hdec, hmn⟩ => selects_of_decode hrow hdec hmn⟩, ?atMostOne,
    ?noneThenUnknown, ?unknownThenNone⟩
  case atMostOne =>
    have hnodup : ((opcodeTable strict).filter fun row => row.selects w).Nodup :=
      (opcodeTable_mnemonics_nodup strict).of_map.filter _
    rw [← List.toFinset_card_of_nodup hnodup, Finset.card_le_one]
    simp only [List.mem_toFinset, List.mem_filter]
    rintro row ⟨hrow, h⟩ row' ⟨hrow', h'⟩
    exact eq_of_selects hrow hrow' h h'
  case noneThenUnknown =>
    intro hnone
    cases hdec : decode strict w with
    | unknownOpcode => rfl
    | handler i =>
      obtain ⟨rfl, hwf⟩ := encodeDecodeRoundTrip strict w i hdec
      obtain ⟨row, hrow, -, hsel⟩ := exists_row_selects_encode hwf
      exact absurd hsel (by simp [hnone row hrow])
  case unknownThenNone =>
    intro hunknown row hrow
    by_contra hsel
    obtain ⟨i, hdec, -⟩ := decode_of_selects hrow (by simpa using hsel)
    cases hunknown.symm.trans hdec

end Sys2Proof
end

section
/-! SUPPORT. The unknown words of 30_encoding.md R82, group by group, the sample words, and the proofs of the two
obligations. -/

namespace Sys2Proof

/-- A test that answers a handler is passed over by the unknown words. -/
theorem ite_handler_eq_unknown_iff {c : Prop} [Decidable c] {i : Instr} {d : Decoded} :
    (if c then .handler i else d) = Decoded.unknownOpcode ↔ ¬ c ∧ d = .unknownOpcode := by
  by_cases hc : c <;> simp [hc]

/-- Group 0x0 (R76): besides the low nibble, `ZERO_GROUP_STRICT` tests the ignored byte. -/
theorem decodeGroup0_eq_unknown_iff (strict : Bool) (w : Word) :
    decodeGroup0 strict w = .unknownOpcode ↔
      (nField w ≠ 0x0#4 ∧ nField w ≠ 0xE#4) ∨ (strict = true ∧ iiField w ≠ 0x0E#8) := by
  cases strict
  case false => simp [decodeGroup0, ite_handler_eq_unknown_iff]
  case true =>
    by_cases hii : iiField w = 0x0E#8
    · simp [decodeGroup0, ite_handler_eq_unknown_iff, hii]
    · simp [decodeGroup0, hii]

theorem decodeGroup5_eq_unknown_iff (w : Word) : decodeGroup5 w = .unknownOpcode ↔ nField w ≠ 0x0#4 := by
  simp [decodeGroup5]

theorem decodeGroup9_eq_unknown_iff (w : Word) : decodeGroup9 w = .unknownOpcode ↔ nField w ≠ 0x0#4 := by
  simp [decodeGroup9]

/-- Group 0x8 (R78): the seven low nibbles that name no operation. -/
theorem decodeGroup8_eq_unknown_iff (w : Word) :
    decodeGroup8 w = .unknownOpcode ↔ nField w ∈ [0x8#4, 0x9#4, 0xA#4, 0xB#4, 0xC#4, 0xD#4, 0xF#4] := by
  have hrest : ∀ n : Nibble, n ∈ [0x8#4, 0x9#4, 0xA#4, 0xB#4, 0xC#4, 0xD#4, 0xF#4] ↔
      n ∉ [0x0#4, 0x1#4, 0x2#4, 0x3#4, 0x4#4, 0x5#4, 0x6#4, 0x7#4, 0xE#4] := by decide
  rw [hrest]
  simp [decodeGroup8, ite_handler_eq_unknown_iff]

theorem decodeGroupE_eq_unknown_iff (w : Word) : decodeGroupE w = .unknownOpcode ↔ kkField w ∉ [0x9E#8, 0xA1#8] := by
  simp [decodeGroupE, ite_handler_eq_unknown_iff]

theorem decodeGroupF_eq_unknown_iff (w : Word) :
    decodeGroupF w = .unknownOpcode ↔
      kkField w ∉ [0x07#8, 0x0A#8, 0x15#8, 0x18#8, 0x1E#8, 0x29#8, 0x33#8, 0x55#8, 0x65#8] := by
  simp [decodeGroupF, ite_handler_eq_unknown_iff]

/-- Outside group 0x0 the two settings of `ZERO_GROUP_STRICT` decode alike (R76). -/
theorem decode_eq_decode_of_op_ne_zero {w : Word} (h : opField w ≠ 0x0#4) (strict strict' : Bool) :
    decode strict w = decode strict' w := by
  simp [decode, h]

/-- The canonical word of a low nibble in group 0x0 is known by its ignored byte and that nibble. -/
theorem eq_encodeZ_iff {w : Word} (hop : opField w = 0x0#4) (ii : Byte) (n : Nibble) :
    w = encodeZ ii n ↔ iiField w = ii ∧ nField w = n := by
  constructor
  · rintro rfl
    exact ⟨iiField_encodeZ ii n, nField_encodeZ ii n⟩
  · rintro ⟨rfl, rfl⟩
    exact (encodeZ_fields w hop).symm

/-- The default decoding, group by group (R82). -/
theorem decode_false_eq_unknown_iff (w : Word) :
    decode false w = .unknownOpcode ↔
      (opField w = 0x0#4 ∧ nField w ≠ 0x0#4 ∧ nField w ≠ 0xE#4) ∨
      (opField w = 0x5#4 ∧ nField w ≠ 0x0#4) ∨
      (opField w = 0x8#4 ∧ nField w ∈ [0x8#4, 0x9#4, 0xA#4, 0xB#4, 0xC#4, 0xD#4, 0xF#4]) ∨
      (opField w = 0x9#4 ∧ nField w ≠ 0x0#4) ∨
      (opField w = 0xE#4 ∧ kkField w ∉ [0x9E#8, 0xA1#8]) ∨
      (opField w = 0xF#4 ∧
        kkField w ∉ [0x07#8, 0x0A#8, 0x15#8, 0x18#8, 0x1E#8, 0x29#8, 0x33#8, 0x55#8, 0x65#8]) := by
  rcases opField_cases w with (op | op | op | op) | (op | op | op | op) | (op | op | op | op) | op | op | op | op
  · rw [decode_of_opField_zero false w op, decodeGroup0_eq_unknown_iff]
    simp [op]
  · simp [decode_of_opField_one false w op, op]
  · simp [decode_of_opField_two false w op, op]
  · simp [decode_of_opField_three false w op, op]
  · simp [decode_of_opField_four false w op, op]
  · rw [decode_of_opField_five false w op, decodeGroup5_eq_unknown_iff]
    simp [op]
  · simp [decode_of_opField_six false w op, op]
  · simp [decode_of_opField_seven false w op, op]
  · rw [decode_of_opField_eight false w op, decodeGroup8_eq_unknown_iff]
    simp [op]
  · rw [decode_of_opField_nine false w op, decodeGroup9_eq_unknown_iff]
    simp [op]
  · simp [decode_of_opField_ten false w op, op]
  · simp [decode_of_opField_eleven false w op, op]
  · simp [decode_of_opField_twelve false w op, op]
  · simp [decode_of_opField_thirteen false w op, op]
  · rw [decode_of_opField_fourteen false w op, decodeGroupE_eq_unknown_iff]
    simp [op]
  · rw [decode_of_opField_fifteen false w op, decodeGroupF_eq_unknown_iff]
    simp [op]

/-- What `ZERO_GROUP_STRICT` adds: all of group 0x0 but the two canonical words (R76, R82). -/
theorem decode_true_eq_unknown_iff (w : Word) :
    decode true w = .unknownOpcode ↔
      decode false w = .unknownOpcode ∨ (opField w = 0x0#4 ∧ w ≠ 0x00E0#16 ∧ w ≠ 0x00EE#16) := by
  by_cases hop : opField w = 0x0#4
  case neg => simp [decode_eq_decode_of_op_ne_zero hop true false, hop]
  case pos =>
    have hcls : w = 0x00E0#16 ↔ iiField w = 0x0E#8 ∧ nField w = 0x0#4 := eq_encodeZ_iff hop 0x0E#8 0x0#4
    have hret : w = 0x00EE#16 ↔ iiField w = 0x0E#8 ∧ nField w = 0xE#4 := eq_encodeZ_iff hop 0x0E#8 0xE#4
    rw [decode_of_opField_zero true w hop, decode_of_opField_zero false w hop, decodeGroup0_eq_unknown_iff,
      decodeGroup0_eq_unknown_iff]
    simp only [hop, Ne, hcls, hret]
    tauto

/-- Settles O4: the two settings, each by its table of groups. -/
theorem unknownWordsAreTheTabledOnes : Obligations.UnknownWordsAreTheTabledOnes := by
  unfold Obligations.UnknownWordsAreTheTabledOnes
  exact fun w => ⟨decode_false_eq_unknown_iff w, decode_true_eq_unknown_iff w⟩

/-- Settles O5: the decoder runs on each word. -/
theorem sampleWordsDecode : Obligations.SampleWordsDecode := by
  unfold Obligations.SampleWordsDecode
  decide

end Sys2Proof
end

section
/-! SUPPORT. The arms of `exec` (47_cycle_step.md R163) beside those of LD Vx,kk and LD I,nnn above: the next state each
instruction answers, in the named operations. -/

namespace Sys2Proof.Machine

variable (x y n : Nibble) (kk ii : Byte) (nnn : Addr12) (s : State)

/-- The display and the collision of DRW's loop, run from the display of `s` (43_display.md R131). -/
def drawnCanvas : Canvas :=
  drawRows s.mem s.I.toNat (readReg s x).toNat (readReg s y).toNat n.toNat { disp := s.disp, hit := false }

theorem exec_cls : exec (.cls ii) s = .next (advance { s with disp := blankDisplay, redraw := true }) := rfl
theorem exec_ret : exec (.ret ii) s = .next (returnFromCall (encode (.ret ii)) s) := rfl
theorem exec_jp : exec (.jp nnn) s = .next (jumpTo (zext16Addr nnn) s) := rfl
theorem exec_call : exec (.call nnn) s = .next (callTo (zext16Addr nnn) (encode (.call nnn)) s) := rfl
theorem exec_seImm : exec (.seImm x kk) s = .next (skipIf (readReg s x == kk) s) := rfl
theorem exec_sneImm : exec (.sneImm x kk) s = .next (skipIf (readReg s x != kk) s) := rfl
theorem exec_seReg : exec (.seReg x y) s = .next (skipIf (readReg s x == readReg s y) s) := rfl
theorem exec_sneReg : exec (.sneReg x y) s = .next (skipIf (readReg s x != readReg s y) s) := rfl
theorem exec_addImm : exec (.addImm x kk) s = .next (advance (writeReg x (readReg s x + kk) s)) := rfl
theorem exec_ldReg : exec (.ldReg x y) s = .next (advance (writeReg x (readReg s y) s)) := rfl
theorem exec_orReg : exec (.orReg x y) s = .next (advance (writeReg x (readReg s x ||| readReg s y) s)) := rfl
theorem exec_andReg : exec (.andReg x y) s = .next (advance (writeReg x (readReg s x &&& readReg s y) s)) := rfl
theorem exec_xorReg : exec (.xorReg x y) s = .next (advance (writeReg x (readReg s x ^^^ readReg s y) s)) := rfl
theorem exec_addReg : exec (.addReg x y) s =
    .next (writeResultAndFlag x (readReg s x + readReg s y) (carry (readReg s x) (readReg s y)) s) := rfl
theorem exec_subReg : exec (.subReg x y) s =
    .next (writeResultAndFlag x (readReg s x - readReg s y) (noBorrow (readReg s x) (readReg s y)) s) := rfl
theorem exec_shr : exec (.shr x y) s =
    .next (writeResultAndFlag x (readReg s x >>> 1) (lowBit (readReg s x)) s) := rfl
theorem exec_subnReg : exec (.subnReg x y) s =
    .next (writeResultAndFlag x (readReg s y - readReg s x) (noBorrow (readReg s y) (readReg s x)) s) := rfl
theorem exec_shl : exec (.shl x y) s =
    .next (writeResultAndFlag x (readReg s x <<< 1) (highBit (readReg s x)) s) := rfl
theorem exec_jpV0 : exec (.jpV0 nnn) s = .next (jumpTo (zext16Addr nnn + zext16 (readReg s 0x0#4)) s) := rfl
theorem exec_rnd : exec (.rnd x kk) s = .next (advance (countDraw (writeReg x (randByte s &&& kk) s))) := rfl
theorem exec_drw : exec (.drw x y n) s =
    .next (advance (writeReg vf (flagByte (drawnCanvas x y n s).hit)
      { s with disp := (drawnCanvas x y n s).disp, redraw := true })) := rfl
theorem exec_skp : exec (.skp x) s = .next (skipIfKey true x (encode (.skp x)) s) := rfl
theorem exec_sknp : exec (.sknp x) s = .next (skipIfKey false x (encode (.sknp x)) s) := rfl
theorem exec_ldVxDt : exec (.ldVxDt x) s = .next (advance (writeReg x s.dt s)) := rfl
theorem exec_ldVxK : exec (.ldVxK x) s = .next (enterKeyWait x s) := rfl
theorem exec_ldDtVx : exec (.ldDtVx x) s = .next (advance { s with dt := readReg s x }) := rfl
theorem exec_ldStVx : exec (.ldStVx x) s = .next (advance { s with st := readReg s x }) := rfl
theorem exec_addI : exec (.addI x) s = .next (advance { s with I := s.I + zext16 (readReg s x) }) := rfl
theorem exec_ldF : exec (.ldF x) s = .next (advance { s with I := 5#16 * zext16 (readReg s x) }) := rfl
theorem exec_ldB : exec (.ldB x) s =
    .next (advance { s with mem := storeBcd s.mem s.I.toNat (readReg s x) }) := rfl
theorem exec_storeRegs : exec (.storeRegs x) s =
    .next (advance { s with mem := dumpRegs s.v s.I.toNat (x.toNat + 1) s.mem }) := rfl
theorem exec_loadRegs : exec (.loadRegs x) s =
    .next (advance { s with v := fillRegs s.mem s.I.toNat (x.toNat + 1) s.v }) := rfl

end Sys2Proof.Machine
end

section
/-! SUPPORT. Memory (20_memory.md R50, R51, R53), and the proof of the obligation about a single access. -/

namespace Sys2Proof.Machine

/-- Settles O6: reads and writes use the address modulo 4096 alone, and a read after a write is `read_write`. -/
theorem everyAccessIsMaskedByteByByte : Obligations.EveryAccessIsMaskedByteByByte := by
  unfold Obligations.EveryAccessIsMaskedByteByByte
  intro m addr a b
  have hread : ∀ addr, m.read addr = m.read (addr % 4096) := fun addr => by simp [Memory.read]
  refine ⟨hread addr, by simp [Memory.write], ?readBack, ?word⟩
  case readBack => simp only [read_write, eq_comm (a := a % 4096)]
  case word => rw [Memory.readWord, wordOfBytes, hread addr, hread (addr + 1)]

end Sys2Proof.Machine
end

section
/-! SUPPORT. The flow control family (40_flow_control.md): the jumps, the call and the return, the skips, and the proofs of
the family's obligations. -/

namespace Sys2Proof.Machine

/-- Widening a byte keeps its value (00_scope.md R11). -/
@[simp] theorem zext16_toNat (b : Byte) : (zext16 b).toNat = b.toNat :=
  BitVec.toNat_setWidth_of_le (by decide)

/-- Bnnn's target does not reach 65536, so the sum does not wrap (R97). -/
theorem toNat_zext16Addr_add_zext16 (nnn : Addr12) (b : Byte) :
    (zext16Addr nnn + zext16 b).toNat = nnn.toNat + b.toNat := by
  have hnnn := nnn.isLt
  have hb := b.isLt
  rw [BitVec.toNat_add, zext16Addr_toNat, zext16_toNat, Nat.mod_eq_of_lt (by omega)]

/-- A jump changes `pc` alone. -/
theorem jumpTo_frame (s : State) (target : Word) : jumpTo target s = { s with pc := (jumpTo target s).pc } := rfl

/-- Settles O7: each target as a number, and a jump's frame. -/
theorem jumpsSetPc : Obligations.JumpsSetPc := by
  unfold Obligations.JumpsSetPc
  intro strict nnn s
  refine ⟨decodeEncodeRoundTrip strict (.jp nnn) rfl, ⟨_, exec_jp nnn s, ?_, jumpTo_frame s _⟩,
    decodeEncodeRoundTrip strict (.jpV0 nnn) rfl, _, exec_jpV0 nnn s, ?_, jumpTo_frame s _⟩
  · rw [jumpTo_pc, zext16Addr_toNat]
  · rw [jumpTo_pc, toNat_zext16Addr_add_zext16]

/-- CALL with room on the stack pushes its `pc` and jumps (R92). -/
theorem callTo_of_lt {s : State} (h : s.stack.length < 16) (target opcode : Word) :
    callTo target opcode s = jumpTo target (push s.pc s) := if_neg (Nat.not_le.mpr h)

/-- CALL on a full stack raises (R92). -/
theorem callTo_of_le {s : State} (h : 16 ≤ s.stack.length) (target opcode : Word) :
    callTo target opcode s = raise .stackOverflow opcode s := if_pos h

/-- RET pops the last entry (R90). -/
theorem returnFromCall_of_append {s : State} {rest : List Word} {t : Word} (h : s.stack = rest ++ [t]) (opcode : Word) :
    returnFromCall opcode s = jumpTo (t + 2#16) { s with stack := rest } := by
  simp [returnFromCall, h]

/-- RET on an empty stack raises (R90). -/
theorem returnFromCall_of_nil {s : State} (h : s.stack = []) (opcode : Word) :
    returnFromCall opcode s = raise .stackUnderflow opcode s := by
  simp [returnFromCall, h]

/-- Settles O8: the two cases of CALL's body. -/
theorem callPushesOrOverflows : Obligations.CallPushesOrOverflows := by
  unfold Obligations.CallPushesOrOverflows
  intro strict nnn s
  refine ⟨decodeEncodeRoundTrip strict (.call nnn) rfl, fun hroom => ?_, fun hfull => ?_⟩
  · rw [exec_call, callTo_of_lt hroom]
    rfl
  · rw [exec_call, callTo_of_le hfull.ge]
    rfl

/-- Settles O9: the two cases of RET's body. -/
theorem retPopsOrUnderflows : Obligations.RetPopsOrUnderflows := by
  unfold Obligations.RetPopsOrUnderflows
  intro ii s
  refine ⟨decodeEncodeRoundTrip false (.ret ii) rfl, fun rest t hstack => ?_, fun hempty => ?_⟩
  · rw [exec_ret, returnFromCall_of_append hstack]
    rfl
  · rw [exec_ret, returnFromCall_of_nil hempty]
    rfl

/-- Settles O11: a skip adds 4 or 2 by its comparison, whose outcome is a Boolean in the model. -/
theorem skipsMovePcByFourOrTwo : Obligations.SkipsMovePcByFourOrTwo := by
  unfold Obligations.SkipsMovePcByFourOrTwo
  intro x y kk s
  rw [exec_seImm, exec_sneImm, exec_seReg, exec_sneReg]
  refine ⟨?_, ?_, ?_, ?_⟩
  · by_cases h : readReg s x = kk <;> simp [skipIf, h]
  · by_cases h : readReg s x = kk <;> simp [skipIf, h]
  · by_cases h : readReg s x = readReg s y <;> simp [skipIf, h]
  · by_cases h : readReg s x = readReg s y <;> simp [skipIf, h]

end Sys2Proof.Machine
end

section
/-! SUPPORT. The arithmetic and logic family (41_arithmetic_logic.md): the registers after a result and a flag as numbers,
and the proofs of the family's obligations. -/

namespace Sys2Proof.Machine

/-- Settles O13: one register write of the sum. -/
theorem addImmediateWrapsWithoutFlag : Obligations.AddImmediateWrapsWithoutFlag := by
  unfold Obligations.AddImmediateWrapsWithoutFlag
  intro strict x kk s
  refine ⟨decodeEncodeRoundTrip strict (.addImm x kk) rfl, _, exec_addImm x kk s, fun r => ?_,
    advance_writeReg_frame s x _⟩
  rw [readReg_advance_writeReg, apply_ite BitVec.toNat, BitVec.toNat_add]

/-- Settles O14: each is one register write. -/
theorem moveAndLogicWriteOnlyVx : Obligations.MoveAndLogicWriteOnlyVx := by
  unfold Obligations.MoveAndLogicWriteOnlyVx
  intro x y s
  exact ⟨⟨_, exec_ldReg x y s, fun r => readReg_advance_writeReg s x r _, advance_writeReg_frame s x _⟩,
    ⟨_, exec_orReg x y s, fun r => readReg_advance_writeReg s x r _, advance_writeReg_frame s x _⟩,
    ⟨_, exec_andReg x y s, fun r => readReg_advance_writeReg s x r _, advance_writeReg_frame s x _⟩,
    _, exec_xorReg x y s, fun r => readReg_advance_writeReg s x r _, advance_writeReg_frame s x _⟩

/-- A result and a flag change the registers and `pc` alone (R27). -/
theorem writeResultAndFlag_frame (s : State) (x : Nibble) (result flag : Byte) :
    writeResultAndFlag x result flag s =
      { s with v := (writeResultAndFlag x result flag s).v, pc := s.pc + 2#16 } := rfl

/-- The registers after a result and a flag, as numbers: VF has the flag, also when it is the destination (D8). -/
theorem toNat_readReg_writeResultAndFlag (s : State) (x r : Nibble) (result flag : Byte) :
    (readReg (writeResultAndFlag x result flag s) r).toNat =
      if r = 0xF#4 then flag.toNat else if r = x then result.toNat else (readReg s r).toNat := by
  rw [readReg_writeResultAndFlag, vf, apply_ite BitVec.toNat, apply_ite BitVec.toNat]

theorem flagByte_toNat (b : Bool) : (flagByte b).toNat = if b then 1 else 0 := by cases b <;> rfl

theorem carry_toNat (a b : Byte) : (carry a b).toNat = if a.toNat + b.toNat > 255 then 1 else 0 := by
  simp only [carry, flagByte_toNat, decide_eq_true_eq]

theorem noBorrow_toNat (a b : Byte) : (noBorrow a b).toNat = if a.toNat ≥ b.toNat then 1 else 0 := by
  simp only [noBorrow, flagByte_toNat, decide_eq_true_eq]

/-- Bit 0 is the remainder by 2. -/
theorem lowBit_toNat (a : Byte) : (lowBit a).toNat = a.toNat % 2 := by
  rw [lowBit, flagByte_toNat, BitVec.getLsbD, Nat.testBit_zero]
  simp only [decide_eq_true_eq]
  split <;> omega

/-- Bit 7 is the quotient by 128. -/
theorem highBit_toNat (a : Byte) : (highBit a).toNat = a.toNat / 128 := by
  have ha := a.isLt
  rw [highBit, flagByte_toNat, BitVec.getLsbD, Nat.testBit_eq_decide_div_mod_eq]
  simp only [decide_eq_true_eq]
  split <;> omega

/-- The difference modulo 256, the borrow added before the subtraction. -/
theorem sub_toNat (a b : Byte) : (a - b).toNat = (a.toNat + 256 - b.toNat) % 256 := by
  rw [BitVec.toNat_sub]
  have := b.isLt
  omega

/-- Settles O15: the sum and the carry. -/
theorem addRegisterSetsCarryLast : Obligations.AddRegisterSetsCarryLast := by
  unfold Obligations.AddRegisterSetsCarryLast
  intro x y s
  refine ⟨_, exec_addReg x y s, fun r => ?_, writeResultAndFlag_frame s x _ _⟩
  rw [toNat_readReg_writeResultAndFlag, carry_toNat, BitVec.toNat_add]

/-- Settles O16: the difference and the flag of no borrow, the minuend `Vx` for SUB and `Vy` for SUBN. -/
theorem subtractionsSetNoBorrowLast : Obligations.SubtractionsSetNoBorrowLast := by
  unfold Obligations.SubtractionsSetNoBorrowLast
  intro x y s
  refine ⟨⟨_, exec_subReg x y s, fun r => ?_, writeResultAndFlag_frame s x _ _⟩,
    _, exec_subnReg x y s, fun r => ?_, writeResultAndFlag_frame s x _ _⟩
  · rw [toNat_readReg_writeResultAndFlag, noBorrow_toNat, sub_toNat]
  · rw [toNat_readReg_writeResultAndFlag, noBorrow_toNat, sub_toNat]

/-- Settles O17: halving and doubling, and the bit that leaves. -/
theorem shiftsCaptureTheBitShiftedOut : Obligations.ShiftsCaptureTheBitShiftedOut := by
  unfold Obligations.ShiftsCaptureTheBitShiftedOut
  intro x y s
  refine ⟨⟨_, exec_shr x y s, fun r => ?_, writeResultAndFlag_frame s x _ _⟩,
    _, exec_shl x y s, fun r => ?_, writeResultAndFlag_frame s x _ _⟩
  · rw [toNat_readReg_writeResultAndFlag, lowBit_toNat, BitVec.toNat_ushiftRight, Nat.shiftRight_eq_div_pow]
  · rw [toNat_readReg_writeResultAndFlag, highBit_toNat, BitVec.toNat_shiftLeft, Nat.shiftLeft_eq]

end Sys2Proof.Machine
end

section
/-! SUPPORT. The index and memory transfer family (42_memory_index.md) beside LD I,nnn: the writers of `I`, the stores and
the loads byte by byte, and the proofs of the family's obligations. -/

namespace Sys2Proof.Machine

/-- Five times a byte does not reach 65536, so the glyph's address does not wrap (R122). -/
theorem toNat_five_mul_zext16 (b : Byte) : (5#16 * zext16 b).toNat = 5 * b.toNat := by
  have hb := b.isLt
  rw [BitVec.toNat_mul, zext16_toNat, BitVec.toNat_ofNat]
  omega

/-- Settles O19: the two sums as numbers, and the frame of a write of `I`. -/
theorem addIndexAndFontLookup : Obligations.AddIndexAndFontLookup := by
  unfold Obligations.AddIndexAndFontLookup
  intro x s
  refine ⟨⟨_, exec_addI x s, ?_, advance_writeI_frame s _⟩, _, exec_ldF x s, ?_, advance_writeI_frame s _⟩
  · rw [advance_I, BitVec.toNat_add, zext16_toNat]
  · rw [advance_I, toNat_five_mul_zext16]

/-- Writing memory and the move of `pc` change memory and `pc` alone. -/
theorem advance_writeMem_frame (s : State) (m : Memory) :
    advance { s with mem := m } = { s with mem := (advance { s with mem := m }).mem, pc := s.pc + 2#16 } := rfl

/-- Writing the registers and the move of `pc` change them alone. -/
theorem advance_writeV_frame (s : State) (v : Vector Byte 16) :
    advance { s with v := v } = { s with v := (advance { s with v := v }).v, pc := s.pc + 2#16 } := rfl

/-- A number below 256 is kept by its byte. -/
theorem toNat_byte_of_lt {k : Nat} (h : k < 256) : (BitVec.ofNat 8 k).toNat = k := by
  rw [BitVec.toNat_ofNat, Nat.mod_eq_of_lt h]

/-- Settles O20: the three stores have different addresses modulo 4096, so each digit stands where it was put. -/
theorem bcdStoresThreeDigits : Obligations.BcdStoresThreeDigits := by
  unfold Obligations.BcdStoresThreeDigits
  intro strict x s
  have hvx := (readReg s x).isLt
  refine ⟨decodeEncodeRoundTrip strict (.ldB x) rfl, _, exec_ldB x s, ?hundreds, ?tens, ?ones, fun a ha => ?outside,
    advance_writeMem_frame s _⟩
  case hundreds =>
    rw [advance_mem, read_storeBcd, if_neg (by omega), if_neg (by omega), if_pos rfl, toNat_byte_of_lt (by omega)]
  case tens => rw [advance_mem, read_storeBcd, if_neg (by omega), if_pos rfl, toNat_byte_of_lt (by omega)]
  case ones => rw [advance_mem, read_storeBcd, if_pos rfl, toNat_byte_of_lt (by omega)]
  case outside =>
    rw [advance_mem, read_storeBcd, if_neg (ha 2 (by decide)), if_neg (ha 1 (by decide)),
      if_neg (by simpa using ha 0 (by decide))]

/-- The register dump puts a register up to the last one in its byte. -/
theorem read_dumpRegs_readReg (m : Memory) (s : State) (i : Nat) {r x : Nibble} (h : r.toNat ≤ x.toNat) :
    (dumpRegs s.v i (x.toNat + 1) m).read (i + r.toNat) = readReg s r :=
  read_dumpRegs_inside m s.v i (x.toNat + 1) r.toNat (Nat.lt_succ_of_le h) x.isLt

/-- Settles O21: the dump inside and outside its bytes. -/
theorem registerDumpStoresV0ToVx : Obligations.RegisterDumpStoresV0ToVx := by
  unfold Obligations.RegisterDumpStoresV0ToVx
  intro x s
  refine ⟨_, exec_storeRegs x s, fun r hr => ?_, fun a ha => ?_, advance_writeMem_frame s _⟩
  · exact read_dumpRegs_readReg s.mem s s.I.toNat hr
  · exact read_dumpRegs_outside s.mem s.v s.I.toNat (x.toNat + 1) a fun k hk => ha k (Nat.le_of_lt_succ hk)

/-- The registers after the load (R125). -/
theorem readReg_loadRegs (s : State) (x r : Nibble) :
    readReg (advance { s with v := fillRegs s.mem s.I.toNat (x.toNat + 1) s.v }) r =
      if r.toNat ≤ x.toNat then s.mem.read (s.I.toNat + r.toNat) else readReg s r := by
  simp only [readReg, advance_v, getElem_fillRegs, Nat.lt_succ_iff]

/-- Settles O22: the load register by register. -/
theorem registerLoadFillsV0ToVx : Obligations.RegisterLoadFillsV0ToVx := by
  unfold Obligations.RegisterLoadFillsV0ToVx
  intro x s
  exact ⟨_, exec_loadRegs x s, fun r => readReg_loadRegs s x r, advance_writeV_frame s _⟩

/-- Settles O23: the load reads the byte the dump stored, at the same `I`. -/
theorem dumpThenLoadRestoresRegisters : Obligations.DumpThenLoadRestoresRegisters := by
  unfold Obligations.DumpThenLoadRestoresRegisters
  intro x s t u scratch hdump hload r hr
  rw [exec_storeRegs] at hdump
  cases hdump
  rw [exec_loadRegs] at hload
  cases hload
  rw [readReg_loadRegs, if_pos hr]
  exact read_dumpRegs_readReg s.mem s s.I.toNat hr

end Sys2Proof.Machine
end

section
/-! SUPPORT. The display family (43_display.md): what the sprite covers, what DRW leaves in the display and in VF, and the
proofs of the family's obligations. -/

namespace Sys2Proof.Machine

/-- Settles O24: the cleared display, and the frame by computation. -/
theorem clsClearsEveryPixel : Obligations.ClsClearsEveryPixel := by
  unfold Obligations.ClsClearsEveryPixel
  intro ii s
  exact ⟨decodeEncodeRoundTrip false (.cls ii) rfl, _, exec_cls ii s, pixel_blankDisplay, rfl⟩

/-- On the display's own rows and columns the statement's cover is the loop's. -/
theorem spriteCovers_iff_rowsCover (s : State) (vx vy n : Nat) {row col : Nat} (hrow : row < 32) (hcol : col < 64) :
    SpriteCovers s vx vy n row col ↔ RowsCover s.mem s.I.toNat vx vy n row col := by
  simp only [SpriteCovers, RowsCover, RowCovers, spriteBit, Nat.mod_eq_of_lt hrow, Nat.mod_eq_of_lt hcol]
  constructor
  · rintro ⟨r, hr, c, hc, hbit, hy, hx⟩
    exact ⟨r, hr, hy, c, hc, hbit, hx⟩
  · rintro ⟨r, hr, hy, c, hc, hbit, hx⟩
    exact ⟨r, hr, c, hc, hbit, hy, hx⟩

/-- A pixel depends on its coordinates modulo the display's size (R133). -/
theorem pixel_mod (d : Display) (row col : Nat) : d.pixel (row % 32) (col % 64) = d.pixel row col := by
  simp only [Display.pixel, Nat.mod_mod]

section Drw
variable (x y n : Nibble) (s : State)

/-- DRW inverts the pixels its sprite covers (R131). -/
theorem drawnCanvas_pixel_of_covered {row col : Nat}
    (h : RowsCover s.mem s.I.toNat (readReg s x).toNat (readReg s y).toNat n.toNat row col) :
    (drawnCanvas x y n s).disp.pixel row col = !s.disp.pixel row col :=
  (drawRows_pixel s.mem s.I.toNat _ _ n.toNat (n.isLt.le.trans (by decide)) _ row col).1 h

/-- DRW keeps the pixels its sprite does not cover (R131). -/
theorem drawnCanvas_pixel_of_not_covered {row col : Nat}
    (h : ¬ RowsCover s.mem s.I.toNat (readReg s x).toNat (readReg s y).toNat n.toNat row col) :
    (drawnCanvas x y n s).disp.pixel row col = s.disp.pixel row col :=
  (drawRows_pixel s.mem s.I.toNat _ _ n.toNat (n.isLt.le.trans (by decide)) _ row col).2 h

/-- A collision is a set sprite bit on a pixel that was on (R131). -/
theorem drawnCanvas_hit_iff :
    (drawnCanvas x y n s).hit = true ↔ ∃ r < n.toNat, ∃ c < 8,
      spriteBit (s.mem.read (s.I.toNat + r)) c = true ∧
        s.disp.pixel ((readReg s y).toNat + r) ((readReg s x).toNat + c) = true := by
  simpa [drawnCanvas] using drawRows_hit s.mem s.I.toNat (readReg s x).toNat (readReg s y).toNat n.toNat
    (n.isLt.le.trans (by decide)) { disp := s.disp, hit := false }

/-- A collision is a pixel of the display that went from on to off. -/
theorem drawnCanvas_hit_iff_pixel_off :
    (drawnCanvas x y n s).hit = true ↔ ∃ row < 32, ∃ col < 64,
      s.disp.pixel row col = true ∧ (drawnCanvas x y n s).disp.pixel row col = false := by
  rw [drawnCanvas_hit_iff]
  constructor
  · rintro ⟨r, hr, c, hc, hbit, hon⟩
    have hcovered : RowsCover s.mem s.I.toNat (readReg s x).toNat (readReg s y).toNat n.toNat
        (((readReg s y).toNat + r) % 32) (((readReg s x).toNat + c) % 64) :=
      ⟨r, hr, (Nat.mod_mod _ _).symm, c, hc, hbit, (Nat.mod_mod _ _).symm⟩
    refine ⟨_, Nat.mod_lt _ (by decide), _, Nat.mod_lt _ (by decide), (pixel_mod _ _ _).trans hon, ?_⟩
    rw [drawnCanvas_pixel_of_covered x y n s hcovered, pixel_mod, hon]
    rfl
  · rintro ⟨row, -, col, -, hon, hoff⟩
    by_cases hcovered : RowsCover s.mem s.I.toNat (readReg s x).toNat (readReg s y).toNat n.toNat row col
    · obtain ⟨r, hr, hy, c, hc, hbit, hx⟩ := hcovered
      refine ⟨r, hr, c, hc, hbit, ?_⟩
      rw [← pixel_mod, hy, hx, pixel_mod, hon]
    · rw [drawnCanvas_pixel_of_not_covered x y n s hcovered, hon] at hoff
      cases hoff

/-- The registers after DRW: VF has the collision (R131). -/
theorem readReg_drw (r : Nibble) :
    readReg (advance (writeReg vf (flagByte (drawnCanvas x y n s).hit)
        { s with disp := (drawnCanvas x y n s).disp, redraw := true })) r =
      if r = 0xF#4 then flagByte (drawnCanvas x y n s).hit else readReg s r :=
  readReg_advance_writeReg _ vf r _

/-- What DRW leaves in memory, `I`, the display and the registers but VF. -/
theorem drw_next {x y n : Nibble} {s t : State} (h : exec (.drw x y n) s = .next t) :
    t.mem = s.mem ∧ t.I = s.I ∧ t.disp = (drawnCanvas x y n s).disp ∧
      ∀ r : Nibble, r ≠ 0xF#4 → readReg t r = readReg s r := by
  rw [exec_drw] at h
  cases h
  exact ⟨rfl, rfl, rfl, fun r hr => by rw [readReg_drw, if_neg hr]⟩

end Drw

theorem flagByte_eq_one_iff (b : Bool) : flagByte b = 1#8 ↔ b = true := by cases b <;> decide

/-- Settles O25: the loop's pixels and collision, read at the display's own rows and columns. -/
theorem drwInvertsCoveredPixels : Obligations.DrwInvertsCoveredPixels := by
  unfold Obligations.DrwInvertsCoveredPixels
  intro x y n s
  refine ⟨_, exec_drw x y n s, fun row hrow col hcol => ⟨fun hcov => ?_, fun hcov => ?_⟩, ?collision, ?flag,
    fun r hr => ?registers, rfl⟩
  · rw [spriteCovers_iff_rowsCover s _ _ _ hrow hcol] at hcov
    exact drawnCanvas_pixel_of_covered x y n s hcov
  · rw [spriteCovers_iff_rowsCover s _ _ _ hrow hcol] at hcov
    exact drawnCanvas_pixel_of_not_covered x y n s hcov
  case collision =>
    rw [readReg_drw, if_pos rfl, flagByte_eq_one_iff]
    exact drawnCanvas_hit_iff_pixel_off x y n s
  case flag =>
    rw [readReg_drw, if_pos rfl]
    exact flagByte_cases _
  case registers => rw [readReg_drw, if_neg hr]

/-- Settles O26: the second draw covers the same pixels, as memory, `I` and the coordinates are those of the first, and a
pixel inverted twice is the pixel. -/
theorem drawTwiceRestoresTheDisplay : Obligations.DrawTwiceRestoresTheDisplay := by
  unfold Obligations.DrawTwiceRestoresTheDisplay
  intro x y n s t u hx hy hfirst hsecond
  obtain ⟨hmem, hI, hdisp, hreg⟩ := drw_next hfirst
  obtain ⟨-, -, hdisp', -⟩ := drw_next hsecond
  apply display_ext
  intro row col
  rw [hdisp']
  by_cases hcov : RowsCover s.mem s.I.toNat (readReg s x).toNat (readReg s y).toNat n.toNat row col
  · rw [drawnCanvas_pixel_of_covered x y n t (by rwa [hmem, hI, hreg x hx, hreg y hy]), hdisp,
      drawnCanvas_pixel_of_covered x y n s hcov, Bool.not_not]
  · rw [drawnCanvas_pixel_of_not_covered x y n t (by rwa [hmem, hI, hreg x hx, hreg y hy]), hdisp,
      drawnCanvas_pixel_of_not_covered x y n s hcov]

end Sys2Proof.Machine
end

section
/-! SUPPORT. What an instruction leaves alone (10_state.md sections 1, 3, 4 and 6, 20_memory.md section 4), and the proofs
of the obligations about it. -/

namespace Sys2Proof.Machine

/-! ### The instructions that can raise -/

/-- The two key skips write `pc` and the latch alone. -/
theorem exec_keySkip_frame {i : Instr} {s t : State} (h : exec i s = .next t) (hi : ∃ x, i = .skp x ∨ i = .sknp x) :
    ∃ pc fault, t = { s with pc := pc, fault := fault } := by
  obtain ⟨want, x, opcode, rfl⟩ : ∃ want x opcode, t = skipIfKey want x opcode s := by
    obtain ⟨x, rfl | rfl⟩ := hi
    · exact ⟨true, x, _, (Host.Outcome.next.inj h).symm⟩
    · exact ⟨false, x, _, (Host.Outcome.next.inj h).symm⟩
  rcases skipIfKey_cases want x opcode s with ⟨-, e⟩ | ⟨-, e⟩
  · exact ⟨s.pc, _, e⟩
  · exact ⟨_, s.fault, e⟩

/-- The four instructions that can raise write the stack, `pc` and the latch alone. -/
theorem exec_mayRaise_frame {i : Instr} {s t : State} (h : exec i s = .next t)
    (hi : (∃ nnn, i = .call nnn) ∨ (∃ ii, i = .ret ii) ∨ ∃ x, i = .skp x ∨ i = .sknp x) :
    ∃ stack pc fault, t = { s with stack := stack, pc := pc, fault := fault } := by
  rcases hi with ⟨nnn, rfl⟩ | ⟨ii, rfl⟩ | hskip
  · cases h
    rcases callTo_cases (zext16Addr nnn) (encode (.call nnn)) s with ⟨-, e⟩ | ⟨-, e⟩
    · exact ⟨s.stack, s.pc, _, e⟩
    · exact ⟨_, _, s.fault, e⟩
  · cases h
    rcases returnFromCall_cases (encode (.ret ii)) s with ⟨-, e⟩ | ⟨rest, t, -, e⟩
    · exact ⟨s.stack, s.pc, _, e⟩
    · exact ⟨_, _, s.fault, e⟩
  · obtain ⟨pc, fault, e⟩ := exec_keySkip_frame h hskip
    exact ⟨s.stack, pc, fault, e⟩

/-- A handler that latches a fault does nothing else (60_exceptions.md R205). -/
theorem eq_raise_of_exec_latches {i : Instr} {s t : State} (h : exec i s = .next t) (hs : s.fault = none)
    (ht : t.fault ≠ none) : ∃ c, t = raise c (encode i) s := by
  rcases exec_latch_cases h hs with hnone | ⟨c, hraise, -⟩
  · exact absurd hnone ht
  · exact ⟨c, hraise⟩

/-! ### Registers -/

theorem readReg_advance_writeReg_other (s : State) {x r : Nibble} {b : Byte} (h : (r == x) = false) :
    readReg (advance (writeReg x b s)) r = readReg s r := by
  rw [readReg_advance_writeReg, if_neg (by simpa using h)]

theorem readReg_writeResultAndFlag_other (s : State) {x r : Nibble} {result flag : Byte}
    (h : (r == x || r == vf) = false) : readReg (writeResultAndFlag x result flag s) r = readReg s r := by
  obtain ⟨hx, hvf⟩ : ¬ r = x ∧ ¬ r = vf := by simpa using h
  rw [readReg_writeResultAndFlag, if_neg hvf, if_neg hx]

/-- Settles O36: one register write, a result and a flag, DRW's flag, the register load; nothing else writes a register. -/
theorem registersFrame : Obligations.RegistersFrame := by
  unfold Obligations.RegistersFrame
  intro i s t r h hr
  cases i
  case ldImm | addImm | ldReg | orReg | andReg | xorReg | rnd | ldVxDt =>
    cases h
    exact readReg_advance_writeReg_other s hr
  case addReg | subReg | shr | subnReg | shl =>
    cases h
    exact readReg_writeResultAndFlag_other s hr
  case drw x y n =>
    obtain ⟨-, -, -, hreg⟩ := drw_next h
    exact hreg r (by simpa [writesReg, vf] using hr)
  case loadRegs x =>
    cases h
    exact (readReg_loadRegs s x r).trans (if_neg (by simpa [writesReg] using hr))
  case call | ret | skp | sknp =>
    obtain ⟨_, _, _, rfl⟩ := exec_mayRaise_frame h (by simp)
    rfl
  all_goals
    cases h
    rfl

/-- VF after a result and a flag is the flag (R26, R27). -/
theorem vf_writeResultAndFlag_flagByte (s : State) (x : Nibble) (result : Byte) (b : Bool) :
    readReg (writeResultAndFlag x result (flagByte b) s) 0xF#4 = 0#8 ∨
      readReg (writeResultAndFlag x result (flagByte b) s) 0xF#4 = 1#8 := by
  rw [readReg_writeResultAndFlag, vf, if_pos rfl]
  exact flagByte_cases b

/-- Settles O37: the six flags are `flagByte`s; the second clause is the frame of registers at VF. -/
theorem vfIsWrittenOnlyAsTabled : Obligations.VfIsWrittenOnlyAsTabled := by
  unfold Obligations.VfIsWrittenOnlyAsTabled
  intro i s t h
  refine ⟨fun hflag => ?_, fun _ hdest => registersFrame i s t 0xF#4 h hdest⟩
  cases i
  case addReg | subReg | shr | subnReg | shl =>
    cases h
    exact vf_writeResultAndFlag_flagByte s _ _ _
  case drw x y n =>
    obtain ⟨t', ht', -, -, hbit, -⟩ := drwInvertsCoveredPixels x y n s
    cases h.symm.trans ht'
    exact hbit
  all_goals cases hflag

/-! ### Memory -/

/-- Memory is written by LD B,Vx and LD [I],Vx alone (20_memory.md R56). -/
theorem exec_mem {i : Instr} {s t : State} (h : exec i s = .next t) (hldB : ∀ x, i ≠ .ldB x)
    (hstore : ∀ x, i ≠ .storeRegs x) : t.mem = s.mem := by
  cases i
  case ldB x => exact absurd rfl (hldB x)
  case storeRegs x => exact absurd rfl (hstore x)
  case call | ret | skp | sknp =>
    obtain ⟨_, _, _, rfl⟩ := exec_mayRaise_frame h (by simp)
    rfl
  all_goals
    cases h
    rfl

/-- The two instructions that store, and all the others. -/
theorem stores_cases (i : Instr) :
    (∃ x, i = .ldB x) ∨ (∃ x, i = .storeRegs x) ∨ (∀ x, i ≠ .ldB x) ∧ ∀ x, i ≠ .storeRegs x := by
  cases i
  case ldB x => exact .inl ⟨x, rfl⟩
  case storeRegs x => exact .inr (.inl ⟨x, rfl⟩)
  all_goals exact .inr (.inr ⟨nofun, nofun⟩)

/-- Settles O38: the two stores outside their bytes. -/
theorem memoryFrame : Obligations.MemoryFrame := by
  unfold Obligations.MemoryFrame
  intro i s t a h ha
  rcases stores_cases i with ⟨x, rfl⟩ | ⟨x, rfl⟩ | ⟨hldB, hstore⟩
  · obtain ⟨-, t', ht', -, -, -, houtside, -⟩ := bcdStoresThreeDigits false x s
    cases h.symm.trans ht'
    exact houtside a ha
  · obtain ⟨t', ht', -, houtside, -⟩ := registerDumpStoresV0ToVx x s
    cases h.symm.trans ht'
    exact houtside a fun k hk => ha k (Nat.lt_succ_of_le hk)
  · rw [exec_mem h hldB hstore]

/-! ### The other pieces of the state -/

/-- Settles O39: the four operations with a raise by their frames, every other instruction by computation. -/
theorem otherStateFrame : Obligations.OtherStateFrame := by
  unfold Obligations.OtherStateFrame
  intro i s t h
  cases i
  case call | ret =>
    obtain ⟨_, _, _, rfl⟩ := exec_mayRaise_frame h (by simp)
    simp
  case skp | sknp =>
    obtain ⟨_, _, rfl⟩ := exec_keySkip_frame h (by simp)
    simp
  case addReg | subReg | shr | subnReg | shl =>
    cases h
    simp [writeResultAndFlag]
  all_goals
    cases h
    simp

end Sys2Proof.Machine
end

section
/-! SUPPORT. What the spec's `SetKey` does in each of its cases (48_host_interface.md R185, R186), and the proof of the
obligation about it. -/

namespace Sys2Proof.Machine

theorem setKey_of_gt {index : Nat} (h : index > 15) (pressed : Bool) (s : State) :
    setKey index pressed s = .rejected .badKeyIndex := dif_neg (Nat.not_lt_of_le h)

/-- A press of a released key is recorded. -/
theorem setKey_press_released {index : Nat} (h : index < 16) {s : State} (hkey : s.key[index] = false) :
    setKey index true s = .done { s with key := s.key.set index true, lastKey := BitVec.ofNat 4 index, kp := true } := by
  simp [setKey, h, hkey]

/-- A press of a held key is nothing (D17). -/
theorem setKey_press_held {index : Nat} (h : index < 16) {s : State} (hkey : s.key[index] = true) :
    setKey index true s = .done s := by
  simp [setKey, h, hkey]

theorem setKey_release {index : Nat} (h : index < 16) (s : State) :
    setKey index false s = .done { s with key := s.key.set index false } := by
  simp [setKey, h]

/-- Settles O57: the four cases. -/
theorem setKeyRecordsPresses : Obligations.SetKeyRecordsPresses := by
  unfold Obligations.SetKeyRecordsPresses
  intro s index pressed
  refine ⟨fun hout => setKey_of_gt hout pressed s, fun hin => ⟨?_, ?_, ?_⟩⟩
  · rintro rfl hkey
    exact setKey_press_released hin hkey
  · rintro rfl hkey
    exact setKey_press_held hin hkey
  · rintro rfl
    exact setKey_release hin s

end Sys2Proof.Machine
end

section
/-! SUPPORT. The cycle family (47_cycle_step.md) beside the timer tick: a tick in each of its cases, and the proofs of the
family's obligations. -/

namespace Sys2Proof.Machine

/-! ### A tick in each of its cases (R162) -/

theorem tick_of_latched (strict : Bool) {s : State} (h : s.fault ≠ none) : tick strict s = .next s :=
  if_pos (Option.isSome_iff_ne_none.mpr h)

theorem tick_of_blocked (strict : Bool) {s : State} (hf : s.fault = none) (hw : s.waiting = true) :
    tick strict s = .next (keyWaitPoll s) := by
  simp [tick, hf, hw]

theorem tick_of_running (strict : Bool) {s : State} (h : s.Running) : tick strict s = runningTick strict s := by
  simp [tick, h.1, h.2]

theorem tick_of_unknown {strict : Bool} {s : State} (h : s.Running) (hdec : decode strict (fetch s) = .unknownOpcode) :
    tick strict s = .next (raise .unknownOpcode (fetch s) s) := by
  rw [tick_of_running strict h, runningTick, hdec]

theorem tick_of_handler {strict : Bool} {s u : State} {i : Instr} (h : s.Running)
    (hdec : decode strict (fetch s) = .handler i) (hexec : exec i s = .next u) (hu : u.fault = none) :
    tick strict s = .next (timerTick u) := by
  rw [tick_of_running strict h, runningTick, hdec]
  simp [endOfTick, hexec, hu]

theorem tick_of_handler_raised {strict : Bool} {s u : State} {i : Instr} (h : s.Running)
    (hdec : decode strict (fetch s) = .handler i) (hexec : exec i s = .next u) (hu : u.fault ≠ none) :
    tick strict s = .next u := by
  rw [tick_of_running strict h, runningTick, hdec]
  simp [endOfTick, hexec, hu]

/-- The three cases of a state at the start of a tick (R161). -/
theorem tickPhase_cases (s : State) : s.fault ≠ none ∨ (s.fault = none ∧ s.waiting = true) ∨ s.Running := by
  by_cases hf : s.fault = none
  · cases hw : s.waiting
    · exact .inr (.inr ⟨hf, hw⟩)
    · exact .inr (.inl ⟨hf, rfl⟩)
  · exact .inl hf

/-- Settles O45: halted, blocked and running ticks, the last by the completeness of `exec`. -/
theorem everyTickAnswersANextState : Obligations.EveryTickAnswersANextState := by
  unfold Obligations.EveryTickAnswersANextState
  intro strict s
  rcases tickPhase_cases s with hf | ⟨hf, hw⟩ | hrun
  · exact ⟨s, tick_of_latched strict hf⟩
  · exact ⟨_, tick_of_blocked strict hf hw⟩
  · cases hdec : decode strict (fetch s) with
    | unknownOpcode => exact ⟨_, tick_of_unknown hrun hdec⟩
    | handler i =>
      obtain ⟨u, hexec⟩ := exec_completes i s
      by_cases hu : u.fault = none
      · exact ⟨_, tick_of_handler hrun hdec hexec hu⟩
      · exact ⟨u, tick_of_handler_raised hrun hdec hexec hu⟩

theorem step_completes (s : State) : ∃ t, step s = .next t := everyTickAnswersANextState Config.zeroGroupStrict s

/-- Settles O41: the bytes at `pc` are the fetched word, and the end of the tick is by the latch. -/
theorem stepRunsTheDecodedInstruction : Obligations.StepRunsTheDecodedInstruction := by
  unfold Obligations.StepRunsTheDecodedInstruction
  intro s i hrun hdec
  exact ⟨fun t hexec ht => tick_of_handler hrun hdec hexec ht,
    fun t hexec ht => tick_of_handler_raised hrun hdec hexec ht, exec_completes i s⟩

/-- Settles O42: a running tick at an unknown word, the raise written out. -/
theorem unknownWordRaises : Obligations.UnknownWordRaises := by
  unfold Obligations.UnknownWordRaises
  intro s hrun hdec
  exact tick_of_unknown hrun hdec

/-- A run of any machine goes on from the state its first step answers. -/
theorem run_succ_of_step (M : Host.Core) {s t : M.State} (h : M.step s = .next t) (n : Nat) :
    M.run (n + 1) s = M.run n t := by
  rw [Host.Core.run, h]

/-- A run from a state that a step leaves alone stays there. -/
theorem run_of_step_self {s : State} (h : step s = .next s) (n : Nat) : core.run n s = .next s := by
  induction n with
  | zero => rfl
  | succ n ih => exact (run_succ_of_step core h n).trans ih

/-- Settles O43: a halted tick leaves the state alone (R167), so any number of them does. -/
theorem haltedTicksChangeNothing : Obligations.HaltedTicksChangeNothing := by
  unfold Obligations.HaltedTicksChangeNothing
  intro s n hf
  exact run_of_step_self (tick_of_latched _ hf) n

/-- The word fetched is that of the instruction it decodes to. -/
theorem encode_eq_fetch {strict : Bool} {s : State} {i : Instr} (h : decode strict (fetch s) = .handler i) :
    encode i = fetch s := (encodeDecodeRoundTrip strict (fetch s) i h).1

/-- A blocked tick latches nothing. -/
@[simp] theorem keyWaitPoll_fault (s : State) : (keyWaitPoll s).fault = s.fault := by
  rcases keyWaitPoll_cases s with ⟨-, e⟩ | ⟨-, e⟩ <;> rw [e]

/-- Settles O44: of the four ways of a step only the running phase latches, by the decoder's raise or the handler's, whose
word is the one fetched. -/
theorem faultingTickSetsOnlyTheLatch : Obligations.FaultingTickSetsOnlyTheLatch := by
  unfold Obligations.FaultingTickSetsOnlyTheLatch
  intro s t hs hstep ht
  rcases step_cases hstep with ⟨hf, -⟩ | ⟨-, -, rfl⟩ | ⟨-, hw, -, rfl⟩ | ⟨-, hw, i, u, hdec, hexec, hend⟩
  · exact absurd hs hf
  · exact absurd ((keyWaitPoll_fault s).trans hs) ht
  · exact ⟨hw, .unknownOpcode, rfl⟩
  · rcases hend with ⟨hu, rfl⟩ | ⟨hu, rfl⟩
    · exact absurd hu ht
    · obtain ⟨c, rfl⟩ := eq_raise_of_exec_latches hexec hs hu
      rw [encode_eq_fetch hdec]
      exact ⟨hw, c, rfl⟩

/-! ### The timers (44_timers.md R144, R165) -/

theorem exec_dt {i : Instr} {s t : State} (h : exec i s = .next t) (hi : ∀ x, i ≠ .ldDtVx x) : t.dt = s.dt := by
  obtain ⟨-, -, -, -, hdt, -⟩ := otherStateFrame i s t h
  exact hdt hi

theorem exec_st {i : Instr} {s t : State} (h : exec i s = .next t) (hi : ∀ x, i ≠ .ldStVx x) : t.st = s.st := by
  obtain ⟨-, -, -, -, -, hst, -⟩ := otherStateFrame i s t h
  exact hst hi

/-- A blocked tick leaves the timers (D16). -/
theorem keyWaitPoll_timers (s : State) : (keyWaitPoll s).dt = s.dt ∧ (keyWaitPoll s).st = s.st := by
  rcases keyWaitPoll_cases s with ⟨-, e⟩ | ⟨-, e⟩ <;> rw [e] <;> exact ⟨rfl, rfl⟩

/-- A running tick that raises nothing counts each timer down from what the handler left in it. -/
theorem step_timers_of_handler {s t : State} {i : Instr} (hrun : s.Running)
    (hdec : decode Config.zeroGroupStrict (fetch s) = .handler i) (hstep : step s = .next t) (ht : t.fault = none) :
    ∃ u, exec i s = .next u ∧ t.dt.toNat = u.dt.toNat - 1 ∧ t.st.toNat = u.st.toNat - 1 := by
  obtain ⟨u, hexec⟩ := exec_completes i s
  by_cases hu : u.fault = none
  · cases hstep.symm.trans (tick_of_handler hrun hdec hexec hu)
    exact ⟨u, hexec, countDown_toNat u.dt, countDown_toNat u.st⟩
  · cases hstep.symm.trans (tick_of_handler_raised hrun hdec hexec hu)
    exact absurd ht hu

/-- Settles O29: a halted tick is nothing, a blocked one leaves the timers, a raise changes the latch alone; and a running
tick counts down from the handler's state, where only LD DT,Vx and LD ST,Vx wrote a timer. -/
theorem timersFallOnlyInRunningTicks : Obligations.TimersFallOnlyInRunningTicks := by
  unfold Obligations.TimersFallOnlyInRunningTicks
  intro s t hstep
  refine ⟨fun hstill => ?still, fun hrun ht i hdec => ?falls⟩
  case still =>
    rcases tickPhase_cases s with hf | ⟨hf, hw⟩ | hrun
    · cases hstep.symm.trans (tick_of_latched _ hf)
      exact ⟨rfl, rfl⟩
    · cases hstep.symm.trans (tick_of_blocked _ hf hw)
      exact keyWaitPoll_timers s
    · have ht := hstill.resolve_left fun hnot => hnot hrun
      obtain ⟨-, c, rfl⟩ := faultingTickSetsOnlyTheLatch s t hrun.1 hstep ht
      exact ⟨rfl, rfl⟩
  case falls =>
    obtain ⟨u, hexec, hdt, hst⟩ := step_timers_of_handler hrun hdec hstep ht
    refine ⟨fun hi => ?_, fun hi => ?_, ?_, ?_⟩
    · rw [hdt, exec_dt hexec hi]
    · rw [hst, exec_st hexec hi]
    · rintro x rfl
      cases hexec
      exact hdt
    · rintro x rfl
      cases hexec
      exact hst

/-- Settles O27: one register write, and the two writes of a timer, by computation. -/
theorem timerTransfers : Obligations.TimerTransfers := by
  unfold Obligations.TimerTransfers
  intro x s
  exact ⟨⟨_, exec_ldVxDt x s, fun r => readReg_advance_writeReg s x r s.dt, advance_writeReg_frame s x s.dt⟩,
    exec_ldDtVx x s, exec_ldStVx x s⟩

/-! ### A call and its return (40_flow_control.md R98) -/

/-- Settles O10: the first tick pushes `pc` and jumps, so the second fetches at `nnn` and pops what was pushed. -/
theorem callThenRetReturnsPastTheCall : Obligations.CallThenRetReturnsPastTheCall := by
  unfold Obligations.CallThenRetReturnsPastTheCall
  intro s nnn ii hrun hcall hroom hret
  have hexecCall : exec (.call nnn) s = .next (jumpTo (zext16Addr nnn) (push s.pc s)) := by
    rw [exec_call, callTo_of_lt hroom]
  have hfirst := tick_of_handler hrun hcall hexecCall hrun.1
  generalize hu : timerTick (jumpTo (zext16Addr nnn) (push s.pc s)) = u at hfirst
  have hstack : u.stack = s.stack ++ [s.pc] := by rw [← hu]; rfl
  have hpc : u.pc.toNat = nnn.toNat := by rw [← hu]; exact zext16Addr_toNat nnn
  have hurun : u.Running := by rw [← hu]; exact hrun
  have hmem : u.mem = s.mem := by rw [← hu]; rfl
  have hfetch : decode Config.zeroGroupStrict (fetch u) = .handler (.ret ii) := by rw [fetch, hmem, hpc, hret]
  have hexecRet : exec (.ret ii) u = .next (jumpTo (s.pc + 2#16) { u with stack := s.stack }) := by
    rw [exec_ret, returnFromCall_of_append hstack]
  refine ⟨u, _, hfirst, hpc, hstack, tick_of_handler hurun hfetch hexecRet hurun.1, ?_⟩
  rw [← hu]
  rfl

/-! ### Where `pc` goes (10_state.md R31) -/

theorem toNat_pc_add_two (s : State) : (s.pc + 2#16).toNat = (s.pc.toNat + 2) % 65536 := BitVec.toNat_add ..

/-- A skip's `pc` as a number. -/
theorem skipIf_pc_toNat (c : Bool) (s : State) :
    (skipIf c s).pc.toNat = if c = true then (s.pc.toNat + 4) % 65536 else (s.pc.toNat + 2) % 65536 := by
  cases c <;> simp [BitVec.toNat_add]

/-- An instruction that latches nothing moves `pc` as tabled. -/
theorem exec_pc {i : Instr} {s t : State} (h : exec i s = .next t) (ht : t.fault = none) :
    t.pc.toNat = pcAfter s i := by
  cases i
  case jp nnn =>
    cases h
    exact zext16Addr_toNat nnn
  case jpV0 nnn =>
    cases h
    rw [jumpTo_pc, BitVec.toNat_add, zext16Addr_toNat, zext16_toNat, pcAfter]
  case call nnn =>
    cases h
    rcases callTo_cases (zext16Addr nnn) (encode (.call nnn)) s with ⟨-, e⟩ | ⟨-, e⟩
    · rw [e] at ht
      cases ht
    · rw [e]
      exact zext16Addr_toNat nnn
  case ret ii =>
    cases h
    rcases returnFromCall_cases (encode (.ret ii)) s with ⟨-, e⟩ | ⟨rest, a, hstack, e⟩
    · rw [e] at ht
      cases ht
    · rw [e, jumpTo_pc, BitVec.toNat_add]
      simp [pcAfter, hstack]
  case seImm x kk =>
    cases h
    rw [skipIf_pc_toNat]
    simp [pcAfter]
  case sneImm x kk =>
    cases h
    rw [skipIf_pc_toNat]
    simp [pcAfter]
  case seReg x y =>
    cases h
    rw [skipIf_pc_toNat]
    simp [pcAfter]
  case sneReg x y =>
    cases h
    rw [skipIf_pc_toNat]
    simp [pcAfter]
  case skp x =>
    cases h
    rcases skipIfKey_cases true x (encode (.skp x)) s with ⟨-, e⟩ | ⟨-, e⟩
    · rw [e] at ht
      cases ht
    · rw [e, skipIf_pc_toNat]
      simp [pcAfter]
  case sknp x =>
    cases h
    rcases skipIfKey_cases false x (encode (.sknp x)) s with ⟨-, e⟩ | ⟨-, e⟩
    · rw [e] at ht
      cases ht
    · rw [e, skipIf_pc_toNat]
      cases hkey : keyPressed s (readReg s x) <;> simp [pcAfter, hkey]
  case ldVxK x =>
    cases h
    rfl
  all_goals
    cases h
    exact toNat_pc_add_two s

/-- Settles O40: the table for every instruction, the raise, and the commit of a blocked tick. -/
theorem pcMovesAsTabled : Obligations.PcMovesAsTabled := by
  unfold Obligations.PcMovesAsTabled
  refine ⟨fun i s t hs h => ⟨exec_pc h, fun ht => ?raised⟩, fun s hf hw hkp => ?commit⟩
  case raised =>
    obtain ⟨c, rfl⟩ := eq_raise_of_exec_latches h hs ht
    rfl
  case commit =>
    refine ⟨_, tick_of_blocked _ hf hw, ?_⟩
    rcases keyWaitPoll_cases s with ⟨hkp', -⟩ | ⟨-, e⟩
    · cases hkp.symm.trans hkp'
    · rw [e]
      exact toNat_pc_add_two s

end Sys2Proof.Machine
end

section
/-! SUPPORT. The key family (45_keys.md): the key skips, the key-wait from its entry to its commit, and the proofs of the
family's obligations. -/

namespace Sys2Proof.Machine

/-! ### The key skips -/

/-- A byte below 16 names a key (10_state.md R39). -/
theorem keyPressed_of_lt {s : State} {k : Byte} (h : k.toNat < 16) : keyPressed s k = s.key[k.toNat] := by
  simp [keyPressed, h]

theorem skipIfKey_of_le {s : State} {x : Nibble} (h : (readReg s x).toNat ≤ 15) (want : Bool) (opcode : Word) :
    skipIfKey want x opcode s = skipIf (keyPressed s (readReg s x) == want) s := if_neg (Nat.not_lt_of_le h)

theorem skipIfKey_of_lt {s : State} {x : Nibble} (h : (readReg s x).toNat < 16) (want : Bool) (opcode : Word) :
    skipIfKey want x opcode s = skipIf (s.key[(readReg s x).toNat] == want) s := by
  rw [skipIfKey_of_le (Nat.le_of_lt_succ h), keyPressed_of_lt h]

theorem skipIfKey_of_gt {s : State} {x : Nibble} (h : (readReg s x).toNat > 15) (want : Bool) (opcode : Word) :
    skipIfKey want x opcode s = raise (.keyIndexOutOfRange (readReg s x)) opcode s := if_pos h

/-- Settles O30: SKP skips on a pressed key, SKNP on a released one. -/
theorem keySkipsTestTheKey : Obligations.KeySkipsTestTheKey := by
  unfold Obligations.KeySkipsTestTheKey
  intro x s h
  rw [exec_skp, exec_sknp, skipIfKey_of_lt h, skipIfKey_of_lt h]
  cases s.key[(readReg s x).toNat] <;> exact ⟨rfl, rfl⟩

/-- Settles O31: the raise, with the encoded word. -/
theorem keySkipsRaiseAboveFifteen : Obligations.KeySkipsRaiseAboveFifteen := by
  unfold Obligations.KeySkipsRaiseAboveFifteen
  intro x s h
  rw [exec_skp, exec_sknp, skipIfKey_of_gt h, skipIfKey_of_gt h]
  exact ⟨rfl, rfl⟩

/-! ### The key-wait -/

/-- Settles O32: the handler by computation, and the running tick that adds the countdown. -/
theorem keyWaitEntryRecordsTarget : Obligations.KeyWaitEntryRecordsTarget := by
  unfold Obligations.KeyWaitEntryRecordsTarget
  intro strict x s
  exact ⟨decodeEncodeRoundTrip strict (.ldVxK x) rfl, exec_ldVxK x s,
    fun hrun hdec => tick_of_handler hrun hdec (exec_ldVxK x s) hrun.1⟩

/-- A poll with no press seen (R148). -/
theorem keyWaitPoll_of_not_seen {s : State} (h : s.kp = false) : keyWaitPoll s = s := by
  simp [keyWaitPoll, h]

/-- A poll that commits (R148). -/
theorem keyWaitPoll_of_seen {s : State} (h : s.kp = true) :
    keyWaitPoll s = { advance (writeReg s.wx (s.lastKey.setWidth 8) s) with waiting := false, kp := false } := by
  simp [keyWaitPoll, h]

/-- The poll does not read memory (R164). -/
theorem keyWaitPoll_set_mem (s : State) (m : Memory) :
    keyWaitPoll { s with mem := m } = { keyWaitPoll s with mem := m } := by
  rcases Bool.eq_false_or_eq_true s.kp with h | h
  · rw [keyWaitPoll_of_seen h]
    exact keyWaitPoll_of_seen (s := { s with mem := m }) h
  · rw [keyWaitPoll_of_not_seen h]
    exact keyWaitPoll_of_not_seen (s := { s with mem := m }) h

/-- The registers after a commit, as numbers. -/
theorem toNat_readReg_commit (s : State) (r : Nibble) :
    (readReg (advance (writeReg s.wx (s.lastKey.setWidth 8) s)) r).toNat =
      if r = s.wx then s.lastKey.toNat else (readReg s r).toNat := by
  rw [readReg_advance_writeReg, apply_ite BitVec.toNat, BitVec.toNat_setWidth_of_le (by decide)]

/-- Settles O33: the two cases of the poll. -/
theorem blockedTickCommitsOrWaits : Obligations.BlockedTickCommitsOrWaits := by
  unfold Obligations.BlockedTickCommitsOrWaits
  intro s hf hw
  have hstep : ∀ m, step { s with mem := m } = .next (keyWaitPoll { s with mem := m }) :=
    fun m => tick_of_blocked _ hf hw
  refine ⟨fun hkp => ?waits, fun hkp => ?commits, fun m => ?memory⟩
  case waits => exact (hstep s.mem).trans (congrArg _ (keyWaitPoll_of_not_seen hkp))
  case commits =>
    exact ⟨_, (hstep s.mem).trans (congrArg _ (keyWaitPoll_of_seen hkp)), toNat_readReg_commit s, rfl⟩
  case memory => exact ⟨_, _, hstep s.mem, hstep m, keyWaitPoll_set_mem s m⟩

/-- While waiting, a press of a released key is seen, and the next tick commits it to `V[wx]`. -/
theorem press_then_tick_commits {u : State} (hf : u.fault = none) (hw : u.waiting = true) {k : Nat} (hk : k < 16)
    (hkey : u.key[k] = false) :
    ∃ p t, setKey k true u = .done p ∧ step p = .next t ∧
      (∀ r, (readReg t r).toNat = if r = u.wx then k else (readReg u r).toNat) ∧
      t = { u with
        v := t.v
        pc := u.pc + 2#16
        key := t.key
        lastKey := t.lastKey
        waiting := false
        kp := false } := by
  generalize hp : { u with key := u.key.set k true, lastKey := BitVec.ofNat 4 k, kp := true } = p
  have hpress : setKey k true u = .done p := hp ▸ setKey_press_released hk hkey
  obtain ⟨-, hcommits, -⟩ := blockedTickCommitsOrWaits p (hp ▸ hf) (hp ▸ hw)
  obtain ⟨t, hstep, hreg, hframe⟩ := hcommits (hp ▸ rfl)
  refine ⟨p, t, hpress, hstep, fun r => ?_, ?_⟩
  · rw [hreg, ← hp]
    simp only [BitVec.toNat_ofNat, Nat.mod_eq_of_lt hk]
    rfl
  · rw [hframe, ← hp]

/-- Settles O34: the entry tick waits with no press seen, so every blocked tick is nothing; a press of a released key is
seen, and the next tick commits it. -/
theorem keyWaitEndsOnAPress : Obligations.KeyWaitEndsOnAPress := by
  unfold Obligations.KeyWaitEndsOnAPress
  intro s x hrun hdec
  have hentry : step s = .next (timerTick (enterKeyWait x s)) := tick_of_handler hrun hdec (exec_ldVxK x s) hrun.1
  obtain ⟨hwaits, -, -⟩ := blockedTickCommitsOrWaits (timerTick (enterKeyWait x s)) hrun.1 rfl
  refine ⟨_, hentry, rfl, rfl, run_of_step_self (hwaits rfl), fun k hk => ⟨fun hheld => ?_, fun hreleased => ?_⟩⟩
  · exact setKey_press_held (s := timerTick (enterKeyWait x s)) hk hheld
  · obtain ⟨p, t, hpress, hstep, hreg, hframe⟩ :=
      press_then_tick_commits (u := timerTick (enterKeyWait x s)) hrun.1 rfl hk hreleased
    refine ⟨p, t, hpress, hstep, hreg, ?_⟩
    rw [hframe]
    exact ⟨rfl, ⟨hrun.1, rfl⟩, rfl, rfl, rfl⟩

end Sys2Proof.Machine
end

section
/-! SUPPORT. The random family (46_random.md), and the proof of its obligation. -/

namespace Sys2Proof.Machine

/-- A byte masked with `kk` has no bit outside `kk`. -/
theorem and_and_not_self (a kk : Byte) : a &&& kk &&& ~~~kk = 0#8 := by
  rw [BitVec.and_assoc, BitVec.and_not_self]
  exact BitVec.and_zero

/-- Settles O35: one register write of the masked byte, and the count. -/
theorem rndMasksTheRandomByte : Obligations.RndMasksTheRandomByte := by
  unfold Obligations.RndMasksTheRandomByte
  intro strict x kk s
  have hreg : ∀ r, readReg (advance (countDraw (writeReg x (randByte s &&& kk) s))) r =
      if r = x then Config.rand s.draws &&& kk else readReg s r :=
    fun r => readReg_advance_writeReg s x r (randByte s &&& kk)
  refine ⟨decodeEncodeRoundTrip strict (.rnd x kk) rfl, _, exec_rnd x kk s, hreg, ?_, rfl⟩
  rw [hreg, if_pos rfl]
  exact and_and_not_self _ kk

end Sys2Proof.Machine
end

section
/-! SUPPORT. The invariant of the core and of a session (10_state.md section 7, 47_cycle_step.md section 1, 60_exceptions.md
section 2, 48_host_interface.md section 1), kept by every step and every event, and the proofs of the obligations about it. -/

namespace Sys2Proof.Machine

/-! ### The invariant from its parts -/

/-- With nothing latched the invariant is canonical memory and a bounded stack. -/
theorem inv_of_no_fault {s : State} (hmem : s.mem.wf) (hstack : s.stack.length ≤ 16) (hf : s.fault = none) : s.Inv where
  memoryCanonical := hmem
  stackBounded := hstack
  oneCase h := absurd hf h
  latchTrue _ h := nomatch hf.symm.trans h

/-- A raise from the running phase keeps the invariant when its record describes the state. -/
theorem inv_raise {s : State} (hs : s.Inv) (hw : s.waiting = false) {c : FaultCause} {w : Word}
    (hdesc : FaultRecord.describes { cause := c, pc := s.pc, opcode := w } s) : (raise c w s).Inv where
  memoryCanonical := hs.memoryCanonical
  stackBounded := hs.stackBounded
  oneCase _ := hw
  latchTrue f h := by
    cases h
    exact hdesc

/-! ### What a handler keeps -/

theorem exec_mem_wf {i : Instr} {s t : State} (h : exec i s = .next t) (hs : s.mem.wf) : t.mem.wf := by
  rcases stores_cases i with ⟨x, rfl⟩ | ⟨x, rfl⟩ | ⟨hldB, hstore⟩
  · cases h
    exact storeBcd_wf hs _ _
  · cases h
    exact dumpRegs_wf hs _ _ _
  · rwa [exec_mem h hldB hstore]

theorem exec_stack {i : Instr} {s t : State} (h : exec i s = .next t) (hcall : ∀ nnn, i ≠ .call nnn)
    (hret : ∀ ii, i ≠ .ret ii) : t.stack = s.stack := by
  obtain ⟨-, -, -, hstack, -⟩ := otherStateFrame i s t h
  exact hstack hcall hret

/-- CALL pushes only with room, RET makes the stack shorter (10_state.md R35). -/
theorem exec_stack_bounded {i : Instr} {s t : State} (h : exec i s = .next t) (hs : s.stack.length ≤ 16) :
    t.stack.length ≤ 16 := by
  cases i
  case call nnn =>
    cases h
    rcases callTo_cases (zext16Addr nnn) (encode (.call nnn)) s with ⟨-, e⟩ | ⟨hroom, e⟩
    · rwa [e]
    · rw [e, jumpTo_stack, push_stack, List.length_append]
      exact hroom
  case ret ii =>
    cases h
    rcases returnFromCall_cases (encode (.ret ii)) s with ⟨-, e⟩ | ⟨rest, a, hstack, e⟩
    · rwa [e]
    · rw [hstack, List.length_append] at hs
      rw [e, jumpTo_stack]
      exact Nat.le_of_succ_le hs
  all_goals rwa [exec_stack h nofun nofun]

/-- What a handler latches describes the state it ran in: the word is its own, the one fetched (log entry 8), and the
cause's condition is the one it tested. -/
theorem exec_raise_describes {i : Instr} {s : State} (hs : s.stack.length ≤ 16) (hword : encode i = fetch s)
    {c : FaultCause}
    (hcause : (c = .stackOverflow ∧ 16 ≤ s.stack.length ∧ ∃ nnn, i = .call nnn) ∨
      (c = .stackUnderflow ∧ s.stack = [] ∧ ∃ ii, i = .ret ii) ∨
      ∃ x, c = .keyIndexOutOfRange (readReg s x) ∧ 15 < (readReg s x).toNat ∧ (i = .skp x ∨ i = .sknp x)) :
    FaultRecord.describes { cause := c, pc := s.pc, opcode := encode i } s := by
  rcases hcause with ⟨rfl, hfull, nnn, rfl⟩ | ⟨rfl, hempty, ii, rfl⟩ | ⟨x, rfl, hbig, hi⟩
  · exact ⟨rfl, hword, Nat.le_antisymm hs hfull, nnn, rfl⟩
  · exact ⟨rfl, hword, hempty, ii, rfl⟩
  · exact ⟨rfl, hword, hbig, x, rfl, hi.imp (congrArg encode) (congrArg encode)⟩

/-! ### What a step and a host operation keep -/

/-- A poll keeps the invariant: it writes one register and the phase. -/
theorem keyWaitPoll_inv {s : State} (hs : s.Inv) (hf : s.fault = none) : (keyWaitPoll s).Inv := by
  rcases keyWaitPoll_cases s with ⟨-, e⟩ | ⟨-, e⟩
  · rwa [e]
  · rw [e]
    exact inv_of_no_fault hs.memoryCanonical hs.stackBounded hf

/-- Settles O46: a halted step is nothing; a poll and an unraised handler latch nothing; a raise changes the latch alone and
its record describes the state. -/
theorem stepKeepsInv : Obligations.StepKeepsInv := by
  unfold Obligations.StepKeepsInv
  intro s t hs hstep
  rcases step_cases hstep with ⟨-, rfl⟩ | ⟨hf, -, rfl⟩ | ⟨-, hw, hdec, rfl⟩ | ⟨hf, hw, i, u, hdec, hexec, hend⟩
  · exact hs
  · exact keyWaitPoll_inv hs hf
  · exact inv_raise hs hw ⟨rfl, rfl, hdec⟩
  · rcases hend with ⟨hu, rfl⟩ | ⟨hu, rfl⟩
    · exact inv_of_no_fault (s := timerTick u) (exec_mem_wf (t := u) hexec hs.memoryCanonical)
        (exec_stack_bounded (t := u) hexec hs.stackBounded) hu
    · rcases exec_latch_cases hexec hf with hnone | ⟨c, rfl, hcause⟩
      · exact absurd hnone hu
      · exact inv_raise hs hw (exec_raise_describes hs.stackBounded (encode_eq_fetch hdec) hcause)

/-- Settles O47: nothing is latched, memory is canonical and the stack empty. -/
theorem resetMeetsInv : Obligations.ResetMeetsInv := by
  unfold Obligations.ResetMeetsInv
  exact inv_of_no_fault reset_wf (Nat.zero_le _) rfl

/-- Every part of the invariant is about other fields than the counter of draws. -/
theorem hostReset_inv (s : State) : (hostReset s).Inv := inv_of_no_fault reset_wf (Nat.zero_le _) rfl

theorem ackRedraw_inv {s : State} (hs : s.Inv) : (ackRedraw s).Inv :=
  ⟨hs.memoryCanonical, hs.stackBounded, hs.oneCase, hs.latchTrue⟩

theorem setKey_inv {index : Nat} {pressed : Bool} {s t : State} (hs : s.Inv) (h : setKey index pressed s = .done t) :
    t.Inv := by
  obtain ⟨keys, last, seen, rfl⟩ := setKey_done h
  exact ⟨hs.memoryCanonical, hs.stackBounded, hs.oneCase, hs.latchTrue⟩

theorem loadProgram_inv {bytes : List Byte} {s t : State} (hs : s.Inv) (hf : s.fault = none)
    (h : loadProgram bytes s = .done t) : t.Inv := by
  obtain ⟨-, rfl⟩ := loadProgram_done h
  exact inv_of_no_fault (writeBytes_wf hs.memoryCanonical _ _) hs.stackBounded hf

/-- Settles O48: the four operations. -/
theorem hostOperationsKeepInv : Obligations.HostOperationsKeepInv := by
  unfold Obligations.HostOperationsKeepInv
  intro s hs
  exact ⟨hostReset_inv s, ackRedraw_inv hs, fun _ _ _ h => setKey_inv hs h, fun _ _ hf h => loadProgram_inv hs hf h⟩

/-! ### Sessions -/

/-- A session that may not load is good when its core is. -/
theorem sessionInv_of_not_loadable {s : State} (hs : s.Inv) : Session.Inv { core := s, loadable := false } :=
  ⟨hs, nofun⟩

/-- Every event keeps the session invariant. -/
theorem apply_inv {ss ss' : Session} {e : Event} {reply : Reply} (hss : ss.Inv) (h : ss.apply e = .next ss' reply) :
    ss'.Inv := by
  rcases apply_cases h with ⟨-, rfl⟩ | ⟨bytes, t, -, hl, hload, rfl⟩ | ⟨-, -, -, rfl⟩ | ⟨index, pressed, t, -, hkey, rfl⟩ |
    ⟨-, rfl⟩ | ⟨t, -, hstep, rfl⟩
  · exact ⟨hostReset_inv ss.core, fun _ => ⟨⟨rfl, rfl⟩, rfl⟩⟩
  · obtain ⟨⟨hf, -⟩, -⟩ := hss.fresh hl
    exact sessionInv_of_not_loadable (loadProgram_inv hss.coreInv hf hload)
  · exact hss
  · obtain ⟨keys, last, seen, rfl⟩ := setKey_done hkey
    exact ⟨setKey_inv hss.coreInv hkey, hss.fresh⟩
  · exact ⟨ackRedraw_inv hss.coreInv, hss.fresh⟩
  · exact sessionInv_of_not_loadable (stepKeepsInv _ _ hss.coreInv hstep)

/-- The session a run begins with is good. -/
theorem boot_inv : Session.boot.Inv := ⟨resetMeetsInv, fun _ => ⟨⟨rfl, rfl⟩, rfl⟩⟩

/-- Settles O49: every event keeps the invariant, so by induction over the events every reachable session meets it. -/
theorem reachableSessionsMeetInv : Obligations.ReachableSessionsMeetInv := by
  unfold Obligations.ReachableSessionsMeetInv
  refine ⟨fun _ _ _ _ hss h => apply_inv hss h, fun ss hreach => ?_⟩
  induction hreach with
  | boot => exact boot_inv
  | event e _ happly ih => exact apply_inv ih happly

/-- Settles O50: no operation but `Reset` writes the latch, and a halted tick is nothing. -/
theorem faultLatchIsSticky : Obligations.FaultLatchIsSticky := by
  unfold Obligations.FaultLatchIsSticky
  intro ss ss' e reply f hf hreset h
  rcases apply_cases h with ⟨he, -⟩ | ⟨bytes, t, -, -, hload, rfl⟩ | ⟨-, -, -, rfl⟩ | ⟨index, pressed, t, -, hkey, rfl⟩ |
    ⟨-, rfl⟩ | ⟨t, -, hstep, rfl⟩
  · exact absurd he hreset
  · obtain ⟨-, rfl⟩ := loadProgram_done hload
    exact hf
  · exact hf
  · obtain ⟨keys, last, seen, rfl⟩ := setKey_done hkey
    exact hf
  · exact hf
  · have hlatched : ss.core.fault ≠ none := by simp [hf]
    cases hstep.symm.trans (tick_of_latched _ hlatched)
    exact hf

end Sys2Proof.Machine
end

section
/-! SUPPORT. Reset, the font and the load (10_state.md section 14, 20_memory.md section 5, 48_host_interface.md sections 1
and 2), and the proofs of the obligations about them. -/

namespace Sys2Proof.Machine

/-- Unwritten memory reads as its reset byte (10_state.md R45). -/
theorem read_reset (a : Nat) : State.reset.mem.read a = resetByte (a % 4096) := rfl

/-- Above the font the reset byte is 0. -/
theorem resetByte_of_le {a : Nat} (h : 0x50 ≤ a) : resetByte a = 0#8 := List.getD_eq_default fontBytes 0#8 h

/-- Settles O51: the fields of the reset state, its display the blank one, its memory 0 above the font. -/
theorem resetValues : Obligations.ResetValues := by
  unfold Obligations.ResetValues
  refine ⟨rfl, rfl, fun r => ?registers, rfl, rfl, rfl, pixel_blankDisplay, rfl, fun k hk => ?keys, rfl, rfl, rfl,
    fun a hfont ha => ?memory⟩
  case registers => exact Vector.getElem_replicate r.isLt
  case keys => exact Vector.getElem_replicate hk
  case memory => rw [read_reset, Nat.mod_eq_of_lt ha, resetByte_of_le hfont]

/-- Settles O52: the 80 bytes by evaluation, a finite fact; then the lookup puts `I` at five times the digit, in the memory
reset left. -/
theorem fontAfterReset : Obligations.FontAfterReset := by
  unfold Obligations.FontAfterReset
  refine ⟨by decide, fun x s hmem _ => ⟨_, exec_ldF x s, ?_⟩⟩
  rw [advance_mem, advance_I, toNat_five_mul_zext16, hmem]

/-- Settles O53: `hostReset` is the reset state but for the count of draws. -/
theorem resetLeavesNoTrace : Obligations.ResetLeavesNoTrace := by
  unfold Obligations.ResetLeavesNoTrace
  exact fun s => ⟨rfl, rfl, rfl⟩

/-- A program that does not fit is rejected (R183). -/
theorem loadProgram_of_lt_length {bytes : List Byte} (h : bytes.length > 3584) (s : State) :
    loadProgram bytes s = .rejected .programTooLarge := if_neg (Nat.not_le_of_lt h)

theorem apply_loadProgram_of_loadable {ss : Session} (h : ss.loadable = true) (bytes : List Byte) :
    ss.apply (.loadProgram bytes) = ss.afterHost false (loadProgram bytes ss.core) := if_pos h

theorem apply_loadProgram_of_not_loadable {ss : Session} (h : ss.loadable = false) (bytes : List Byte) :
    ss.apply (.loadProgram bytes) = .outsideModel := if_neg (by simp [h])

/-- Settles O55: the rejection, and the same session beside the error. -/
theorem oversizedLoadIsRejectedWhole : Obligations.OversizedLoadIsRejectedWhole := by
  unfold Obligations.OversizedLoadIsRejectedWhole
  intro bytes ss hlen hl
  have hrejected := loadProgram_of_lt_length hlen ss.core
  refine ⟨hrejected, ?_⟩
  rw [apply_loadProgram_of_loadable hl, hrejected]
  rfl

/-- A tick as an event. -/
theorem apply_tick {ss : Session} {t : State} (h : step ss.core = .next t) :
    ss.apply .tick = .next { core := t, loadable := false } .done := congrArg Session.afterTick h

/-- Only `Reset` gives the permission to load. -/
theorem loadable_of_apply {ss ss' : Session} {e : Event} {reply : Reply} (he : e ≠ .reset)
    (h : ss.apply e = .next ss' reply) (hl : ss.loadable = false) : ss'.loadable = false := by
  rcases apply_cases h with ⟨hreset, -⟩ | ⟨_, _, -, -, -, rfl⟩ | ⟨-, -, -, rfl⟩ | ⟨_, _, _, -, -, rfl⟩ | ⟨-, rfl⟩ |
    ⟨_, -, -, rfl⟩
  · exact absurd hreset he
  · rfl
  · exact hl
  · exact hl
  · exact hl
  · rfl

/-- Settles O56: the permission through each event, by what the event can lead to. -/
theorem loadOnlyBeforeTheFirstTick : Obligations.LoadOnlyBeforeTheFirstTick := by
  unfold Obligations.LoadOnlyBeforeTheFirstTick
  intro ss ss' reply bytes
  refine ⟨fun hl => apply_loadProgram_of_not_loadable hl bytes, fun hl hlen => ?accepted, fun h => ?tick, fun h => ?load,
    fun h => ?reset, fun e he hl h => loadable_of_apply he h hl⟩
  case accepted =>
    have hdone := loadProgram_of_length_le hlen ss.core
    refine ⟨_, hdone, ?_⟩
    rw [apply_loadProgram_of_loadable hl, hdone]
    rfl
  case tick =>
    obtain ⟨t, hstep⟩ := step_completes ss.core
    cases h.symm.trans (apply_tick hstep)
    rfl
  case load =>
    rcases apply_cases h with ⟨he, -⟩ | ⟨_, _, -, -, -, rfl⟩ | ⟨-, -, hreply, -⟩ | ⟨_, _, _, he, -⟩ | ⟨he, -⟩ | ⟨_, he, -⟩
    · cases he
    · rfl
    · exact absurd rfl hreply
    · cases he
    · cases he
    · cases he
  case reset =>
    cases h
    rfl

end Sys2Proof.Machine
end

section
/-! SUPPORT. What is not read (00_scope.md R14, 10_state.md R36, R38): a write of the counter of draws, of `redraw` or of `ST`
commutes with what a tick does, and the proofs of the obligations about it. -/

namespace Sys2Proof.Machine

/-! ### The instructions that can raise do not read the three fields -/

/-- A write of fields that CALL, RET and the key skips neither read nor write. -/
structure KeepsControl (f : State → State) : Prop where
  pc : ∀ s, (f s).pc = s.pc
  stack : ∀ s, (f s).stack = s.stack
  readReg : ∀ s x, Machine.readReg (f s) x = Machine.readReg s x
  keyPressed : ∀ s k, Machine.keyPressed (f s) k = Machine.keyPressed s k
  raise : ∀ c w s, Machine.raise c w (f s) = f (Machine.raise c w s)
  jumpTo : ∀ target l s, Machine.jumpTo target { f s with stack := l } = f (Machine.jumpTo target { s with stack := l })
  skipIf : ∀ c s, Machine.skipIf c (f s) = f (Machine.skipIf c s)

namespace KeepsControl
variable {f : State → State} (hf : KeepsControl f)
include hf

theorem callTo (target opcode : Word) (s : State) :
    Machine.callTo target opcode (f s) = f (Machine.callTo target opcode s) := by
  rcases callTo_cases target opcode s with ⟨hfull, e⟩ | ⟨hroom, e⟩
  · rw [e, callTo_of_le (by rwa [hf.stack]), hf.raise]
  · rw [e, callTo_of_lt (by rwa [hf.stack]), push, push, hf.jumpTo, hf.stack, hf.pc]

theorem returnFromCall (opcode : Word) (s : State) :
    Machine.returnFromCall opcode (f s) = f (Machine.returnFromCall opcode s) := by
  rcases returnFromCall_cases opcode s with ⟨hempty, e⟩ | ⟨rest, t, hstack, e⟩
  · rw [e, returnFromCall_of_nil (by rwa [hf.stack]), hf.raise]
  · rw [e, returnFromCall_of_append (by rwa [hf.stack]), hf.jumpTo]

theorem skipIfKey (want : Bool) (x : Nibble) (opcode : Word) (s : State) :
    Machine.skipIfKey want x opcode (f s) = f (Machine.skipIfKey want x opcode s) := by
  rcases skipIfKey_cases want x opcode s with ⟨hbig, e⟩ | ⟨hsmall, e⟩
  · rw [e, skipIfKey_of_gt (by rwa [hf.readReg]), hf.readReg, hf.raise]
  · rw [e, skipIfKey_of_le (by rwa [hf.readReg]), hf.readReg, hf.keyPressed, hf.skipIf]

/-- The four instructions that can raise do the same after such a write. -/
theorem exec_mayRaise {i : Instr} {s t : State} (h : exec i s = .next t)
    (hi : (∃ nnn, i = .call nnn) ∨ (∃ ii, i = .ret ii) ∨ ∃ x, i = .skp x ∨ i = .sknp x) :
    exec i (f s) = .next (f t) := by
  rcases hi with ⟨nnn, rfl⟩ | ⟨ii, rfl⟩ | ⟨x, rfl | rfl⟩ <;> cases h
  · exact congrArg _ (hf.callTo _ _ s)
  · exact congrArg _ (hf.returnFromCall _ s)
  · exact congrArg _ (hf.skipIfKey _ _ _ s)
  · exact congrArg _ (hf.skipIfKey _ _ _ s)

end KeepsControl

/-- The state with another count of draws. -/
def setDraws (k : Nat) (s : State) : State := { s with draws := k }

/-- The state with another `redraw`. -/
def setRedraw (b : Bool) (s : State) : State := { s with redraw := b }

/-- The state with another sound timer. -/
def setSt (b : Byte) (s : State) : State := { s with st := b }

theorem keepsControl_setDraws (k : Nat) : KeepsControl (setDraws k) :=
  ⟨fun _ => rfl, fun _ => rfl, fun _ _ => rfl, fun _ _ => rfl, fun _ _ _ => rfl, fun _ _ _ => rfl, fun _ _ => rfl⟩

theorem keepsControl_setRedraw (b : Bool) : KeepsControl (setRedraw b) :=
  ⟨fun _ => rfl, fun _ => rfl, fun _ _ => rfl, fun _ _ => rfl, fun _ _ _ => rfl, fun _ _ _ => rfl, fun _ _ => rfl⟩

theorem keepsControl_setSt (b : Byte) : KeepsControl (setSt b) :=
  ⟨fun _ => rfl, fun _ => rfl, fun _ _ => rfl, fun _ _ => rfl, fun _ _ _ => rfl, fun _ _ _ => rfl, fun _ _ => rfl⟩

/-! ### The handlers -/

/-- A handler but RND's does the same with another count of draws. -/
theorem exec_setDraws {i : Instr} {s t : State} (k : Nat) (hi : ∀ x kk, i ≠ .rnd x kk) (h : exec i s = .next t) :
    exec i (setDraws k s) = .next (setDraws k t) := by
  cases i
  case call | ret | skp | sknp => exact (keepsControl_setDraws k).exec_mayRaise h (by simp)
  case rnd x kk => exact absurd rfl (hi x kk)
  all_goals
    cases h
    rfl

/-- Settles O59: the handler with another count. -/
theorem onlyRndReadsTheRandomInput : Obligations.OnlyRndReadsTheRandomInput := by
  unfold Obligations.OnlyRndReadsTheRandomInput
  exact fun i s t k hi h => exec_setDraws k hi h

/-- A handler does the same with another `redraw`, which CLS and DRW set and the others keep. -/
theorem exec_setRedraw {i : Instr} {s t : State} (b : Bool) (h : exec i s = .next t) :
    ∃ b', exec i (setRedraw b s) = .next (setRedraw b' t) := by
  cases i
  case call | ret | skp | sknp => exact ⟨b, (keepsControl_setRedraw b).exec_mayRaise h (by simp)⟩
  case cls | drw =>
    cases h
    exact ⟨true, rfl⟩
  all_goals
    cases h
    exact ⟨b, rfl⟩

/-- A handler does the same with another sound timer, which LD ST,Vx sets from `Vx` and the others keep. -/
theorem exec_setSt {i : Instr} {s t : State} (b : Byte) (h : exec i s = .next t) :
    ∃ b', exec i (setSt b s) = .next (setSt b' t) := by
  cases i
  case call | ret | skp | sknp => exact ⟨b, (keepsControl_setSt b).exec_mayRaise h (by simp)⟩
  case ldStVx x =>
    cases h
    exact ⟨readReg s x, rfl⟩
  all_goals
    cases h
    exact ⟨b, rfl⟩

/-! ### A tick that does not read a field -/

/-- Writing a field that nothing in a tick reads, but the field's own writers: what the phases, the fetch and the latch
look at is as before, and every part of a tick goes to the same state with some value of the field. -/
structure Unread {α : Type} (set : α → State → State) : Prop where
  fault : ∀ a s, (set a s).fault = s.fault
  waiting : ∀ a s, (set a s).waiting = s.waiting
  fetch : ∀ a s, Machine.fetch (set a s) = Machine.fetch s
  raise : ∀ a c w s, Machine.raise c w (set a s) = set a (Machine.raise c w s)
  poll : ∀ a s, keyWaitPoll (set a s) = set a (keyWaitPoll s)
  timerTick : ∀ a s, ∃ a', Machine.timerTick (set a s) = set a' (Machine.timerTick s)
  exec : ∀ a i s t, Machine.exec i s = .next t → ∃ a', Machine.exec i (set a s) = .next (set a' t)

/-- A step goes the same way whatever the value of an unread field. -/
theorem Unread.step {α : Type} {set : α → State → State} (hset : Unread set) (a : α) {s t : State}
    (h : Machine.step s = .next t) : ∃ a', Machine.step (set a s) = .next (set a' t) := by
  rcases step_cases h with ⟨hf, rfl⟩ | ⟨hf, hw, rfl⟩ | ⟨hf, hw, hdec, rfl⟩ | ⟨hf, hw, i, u, hdec, hexec, hend⟩
  · exact ⟨a, tick_of_latched _ (by rwa [hset.fault])⟩
  · exact ⟨a, (tick_of_blocked _ (by rwa [hset.fault]) (by rwa [hset.waiting])).trans (congrArg _ (hset.poll a s))⟩
  · have hrun : (set a s).Running := ⟨by rwa [hset.fault], by rwa [hset.waiting]⟩
    refine ⟨a, (tick_of_unknown hrun (by rwa [hset.fetch])).trans ?_⟩
    rw [hset.fetch, hset.raise]
  · have hrun : (set a s).Running := ⟨by rwa [hset.fault], by rwa [hset.waiting]⟩
    have hdec' : decode Config.zeroGroupStrict (Machine.fetch (set a s)) = .handler i := by rwa [hset.fetch]
    obtain ⟨b, hexec'⟩ := hset.exec a i s u hexec
    rcases hend with ⟨hu, rfl⟩ | ⟨hu, rfl⟩
    · obtain ⟨b', htimer⟩ := hset.timerTick b u
      exact ⟨b', (tick_of_handler hrun hdec' hexec' (by rwa [hset.fault])).trans (congrArg _ htimer)⟩
    · exact ⟨b, tick_of_handler_raised hrun hdec' hexec' (by rwa [hset.fault])⟩

theorem unread_setRedraw : Unread setRedraw where
  fault _ _ := rfl
  waiting _ _ := rfl
  fetch _ _ := rfl
  raise _ _ _ _ := rfl
  poll b s := by
    rcases keyWaitPoll_cases s with ⟨h, e⟩ | ⟨h, e⟩
    · rw [e]
      exact keyWaitPoll_of_not_seen h
    · rw [e]
      exact keyWaitPoll_of_seen h
  timerTick b _ := ⟨b, rfl⟩
  exec b _ _ _ h := exec_setRedraw b h

theorem unread_setSt : Unread setSt where
  fault _ _ := rfl
  waiting _ _ := rfl
  fetch _ _ := rfl
  raise _ _ _ _ := rfl
  poll b s := by
    rcases keyWaitPoll_cases s with ⟨h, e⟩ | ⟨h, e⟩
    · rw [e]
      exact keyWaitPoll_of_not_seen h
    · rw [e]
      exact keyWaitPoll_of_seen h
  timerTick b _ := ⟨countDown b, rfl⟩
  exec b _ _ _ h := exec_setSt b h

/-- Settles O60: `redraw` and `ST` are unread. -/
theorem noTickReadsRedrawOrTheSoundTimer : Obligations.NoTickReadsRedrawOrTheSoundTimer := by
  unfold Obligations.NoTickReadsRedrawOrTheSoundTimer
  intro s t h
  refine ⟨fun b => ?_, fun b => ?_⟩
  · obtain ⟨b', h'⟩ := unread_setRedraw.step b h
    exact ⟨_, h', rfl⟩
  · obtain ⟨b', h'⟩ := unread_setSt.step b h
    exact ⟨_, h', rfl⟩

/-- Settles O58: the read and the acknowledgement by computation; the two ticks differ by what `redraw` was. -/
theorem displayReadAndAcknowledge : Obligations.DisplayReadAndAcknowledge := by
  unfold Obligations.DisplayReadAndAcknowledge
  intro ss
  obtain ⟨t, h⟩ := step_completes ss.core
  obtain ⟨b, h'⟩ := unread_setRedraw.step false h
  exact ⟨rfl, _, rfl, rfl, _, _, apply_tick h,
    apply_tick (ss := { ss with core := { ss.core with redraw := false } }) h', rfl⟩

end Sys2Proof.Machine
end
